-- ==== Sys2Proof/Word.lean ====
section
/-! DEFINITION. The one word of the engine: 8 bits, the width of a tape cell, of a character of the
instruction sequence and of an input or output byte (00_scope.md R5 `CELL_W`, R11). -/

namespace Sys2Proof

/-- A tape cell, a character or an I/O byte: an unsigned value in `[0, 255]`, bit 0 the least
significant (00_scope.md R9, R10). -/
abbrev Byte := BitVec 8

end Sys2Proof
end

