-- ==== Sys2Proof/Config.lean ====
section
/-! DEFINITION. What an implementation fixes (00_scope.md R5), the register widths that follow from it, the
forms a transaction with the host can take (47_host_interface.md), and the free values. -/

namespace Sys2Proof

/-- The two sizes fixed "at engine construction" (00_scope.md R5). A `State` carries them so that every
statement is about every engine; no step changes them. -/
structure Geometry where
  /-- `TAPE_SIZE`, the number of cells of the tape. -/
  tapeSize : Nat
  /-- `PROG_MAX`, the capacity of the instruction memory, the jump table and the resolver stack. -/
  progMax : Nat
  deriving DecidableEq, Repr

/-- What the input collaborator answers to one `In()` (47_host_interface.md R178). -/
inductive InAnswer where
  | byte (b : Byte)
  | endOfInput
  | failed
  deriving DecidableEq, Repr

/-- What the output collaborator answers to one `Out(b)` (47_host_interface.md R180). -/
inductive OutAnswer where
  | accepted
  | failed
  deriving DecidableEq, Repr, Inhabited

/-- What the host does on its own account at one step (47_host_interface.md R170, R171, R174, R175). `idle`
leaves the step to the engine. DESIGN CHOICE (log entry 6): one entry a step. -/
inductive HostMove where
  | idle
  | load (text : List Byte)
  | start
  | reset
  deriving DecidableEq, Repr

namespace Config

/-- The canonical `TAPE_SIZE` (00_scope.md R5: "default 30000"). -/
def tapeSize : Nat := 30000

/-- `PROG_MAX` less one. `PROG_MAX` is "OPEN: a named parameter of the model, at least 1" (00_scope.md R5), so
nothing can be proved of this number (log entry 2). -/
opaque progMaxLessOne : Nat

/-- `PROG_MAX`, at least 1 by construction (00_scope.md R5). -/
def progMax : Nat := progMaxLessOne + 1

/-- The sizes of the engine `State.reset` stands for. -/
def geometry : Geometry := { tapeSize := tapeSize, progMax := progMax }

/-- What the input collaborator says the `n`-th time it is free to say anything: an answer, or `none`, no answer yet.
A free value, since "a model must treat each answer as a free input of the step" (47_host_interface.md R179; log
entry 7). -/
opaque freeInAnswer : Nat → Option InAnswer

/-- The output collaborator's `n`-th free answer: a free value, since
"a model treats the answer as a free input of the step" (47_host_interface.md R181; log entry 8). -/
opaque freeOutAnswer : Nat → OutAnswer

/-- The least `w` with `n ≤ 2 ^ w`: `ceil(log2 n)`. -/
def ceilLog2 (n : Nat) : Nat := if n ≤ 1 then 0 else Nat.log2 (n - 1) + 1

/-- `W_DP`, the width in bits of the two's-complement data pointer (00_scope.md R5). -/
def widthDp (g : Geometry) : Nat := ceilLog2 (g.tapeSize + 1) + 1

/-- `W_PC`, the width in bits of `pc`, `LEN`, `ri`, `sp`, jump-table and stack entries (00_scope.md R5). -/
def widthPc (g : Geometry) : Nat := ceilLog2 (g.progMax + 1)

end Config
end Sys2Proof
end

