-- ==== Sys2Proof/Syntax.lean ====
section
/-! DEFINITION. The instructions, one constructor per row of the opcode table (30_encoding.md R62). -/

namespace Sys2Proof

/-- The eight instructions of 30_encoding.md R62 and the no-operation space of R64. No instruction has an
operand field (R61); `nop` carries the character it stands for, because characters outside the instruction
set are "retained verbatim" (R64, 45_nop.md R141). -/
inductive Instr where
  /-- `>`, 41_pointer_move.md R101. -/
  | right
  /-- `<`, 41_pointer_move.md R102. -/
  | left
  /-- `+`, 42_cell_arith.md R111. -/
  | inc
  /-- `-`, 42_cell_arith.md R112. -/
  | dec
  /-- `.`, 43_io.md R121. -/
  | output
  /-- `,`, 43_io.md R122. -/
  | input
  /-- `[`, 44_loop.md R131. -/
  | openLoop
  /-- `]`, 44_loop.md R132. -/
  | closeLoop
  /-- Any other character, 45_nop.md R140. -/
  | nop (character : Byte)
  deriving DecidableEq, Repr

end Sys2Proof
end

