-- ==== Sys2Proof/Decode.lean ====
section
/-! DEFINITION. The one format `C8` (30_encoding.md R60): the opcode map, the decoder of characters and of byte
streams, and the encoder. -/

namespace Sys2Proof

/-! The opcode map of 30_encoding.md R62. The glyphs are the source's, the codes the spec's choice of ASCII
(92_eei_decisions.md D1, log entry 3). -/

/-- `'>'` -/
def codeRight : Byte := 0x3E
/-- `'<'` -/
def codeLeft : Byte := 0x3C
/-- `'+'` -/
def codeInc : Byte := 0x2B
/-- `'-'` -/
def codeDec : Byte := 0x2D
/-- `'.'` -/
def codeOutput : Byte := 0x2E
/-- `','` -/
def codeInput : Byte := 0x2C
/-- `'['` -/
def codeOpen : Byte := 0x5B
/-- `']'` -/
def codeClose : Byte := 0x5D

/-- The eight rows of priority 1, each with mask `0xFF` (30_encoding.md R62, R63). -/
def opcodeTable : List (Byte × Instr) :=
  [(codeRight, .right), (codeLeft, .left), (codeInc, .inc), (codeDec, .dec),
   (codeOutput, .output), (codeInput, .input), (codeOpen, .openLoop), (codeClose, .closeLoop)]

/-- The decoder (30_encoding.md R63): the whole character is compared with each of the eight codes; if none
matches, the instruction is `NOP`. It is total, since there is no illegal encoding (R65). -/
def decode (c : Byte) : Instr :=
  match opcodeTable.find? (fun row => row.1 == c) with
  | some row => row.2
  | none => .nop c

/-- Why a byte stream gives no instruction: it is empty. No character is rejected (30_encoding.md R65). -/
inductive DecodeError where
  | noCharacter
  deriving DecidableEq, Repr

/-- The first instruction of a byte stream and the rest of the stream: an instruction is exactly one character
(30_encoding.md R60). -/
def decodeBytes : List Byte → Except DecodeError (Instr × List Byte)
  | [] => .error .noCharacter
  | c :: rest => .ok (decode c, rest)

/-- The character of an instruction (30_encoding.md R62, R64). -/
def encode : Instr → Byte
  | .right => codeRight
  | .left => codeLeft
  | .inc => codeInc
  | .dec => codeDec
  | .output => codeOutput
  | .input => codeInput
  | .openLoop => codeOpen
  | .closeLoop => codeClose
  | .nop c => c

/-- The bytes of an instruction: one character (30_encoding.md R60). -/
def encodeBytes (i : Instr) : List Byte := [encode i]

/-- The bytes, first byte first, of the number `w` with bit 0 the least significant bit of the first byte. -/
def bytesOfWord (w : Nat) : Nat → List Byte
  | 0 => []
  | n + 1 => BitVec.ofNat 8 w :: bytesOfWord (w / 256) n

/-- The instruction the decoder reads from the `nbits` bits of `w` (every bit above `nbits` taken as 0). An
instruction is 8 bits long, so nothing may be left over. -/
def decodeTableWord (nbits w : Nat) : Option Instr :=
  match decodeBytes (bytesOfWord (w % 2 ^ nbits) ((nbits + 7) / 8)) with
  | .ok (i, []) => some i
  | .ok (_, _ :: _) => none
  | .error _ => none

end Sys2Proof
end

