-- ==== Sys2Proof/Machine/State.lean ====
section
/-! DEFINITION. The whole state of the engine (10_state.md R20), the reasons a step can stop, and the state
after reset (R35). -/

namespace Sys2Proof.Machine

/-- The four error kinds (60_exceptions.md R200). They carry no fields. -/
inductive ErrorKind where
  | unmatchedBracket
  | pointerOutOfBounds
  | inputFailed
  | outputFailed
  deriving DecidableEq, Repr

/-- What `RESULT` can say once the engine has halted (10_state.md R27). -/
inductive RunResult where
  | ok
  | error (kind : ErrorKind)
  deriving DecidableEq, Repr

/-- The register `STATUS` (10_state.md R25 to R27), by its eight legal values: `RESULT` is `None` in every phase
but `Halted`. Its 5-bit form is `statusBits` (Machine/Flags.lean). -/
inductive Status where
  | ready
  | resolving
  | running
  | halted (result : RunResult)
  deriving DecidableEq, Repr

/-- Byte-wide memory as plain data: (address, byte) pairs, addresses strictly rising. -/
abbrev Memory := List Host.Cell

/-- A memory of positions (`JT`, the resolver stack): (index, position) pairs, indices strictly rising. -/
abbrev PositionMemory := List (Nat × Nat)

/-- What a collaborator answers once no listed answer is left: one answer for ever, or a free value each time. -/
inductive Rest (α : Type) where
  | always (a : α)
  | free
  deriving DecidableEq, Repr

/-- The answers a collaborator will give: an unending sequence as plain data, the listed ones first. DESIGN CHOICE
(log entries 7 and 8): "no law on the answers" (47_host_interface.md R179, R181), so any may stand here. -/
structure Answers (α : Type) where
  /-- The coming answers, the next one first. -/
  listed : List α
  /-- What follows them. -/
  rest : Rest α
  /-- How many free answers have been drawn. -/
  draws : Nat
  deriving DecidableEq, Repr

/-- The outside world, as the model holds it: what the host will do and answer, and its record of the run. None
of it is state of the engine (10_state.md R34); log entries 6 to 9. -/
structure Port where
  /-- What the host does at each coming step; past the end it is idle for ever. -/
  moves : List HostMove
  /-- What the input collaborator says at each coming step at which a `,` stands at `pc`: an answer, or `none`,
  no answer yet (43_io.md R124). -/
  inputs : Answers (Option InAnswer)
  /-- What the output collaborator answers to each coming `Out` (47_host_interface.md R180). -/
  outputs : Answers OutAnswer
  /-- The output of the run so far, oldest byte first (47_host_interface.md R182). -/
  sent : List Byte
  /-- The answers given on the input interface in the run so far, oldest first (47_host_interface.md R182). -/
  answered : List InAnswer
  deriving DecidableEq, Repr

/-- The state: every element of the table of 10_state.md R20, the two sizes of 00_scope.md R5, and the model's
picture of the outside world. -/
structure State where
  /-- `TAPE_SIZE` and `PROG_MAX`; no step changes them. -/
  geom : Geometry
  /-- `prog`, the instruction sequence (R30). -/
  prog : Memory
  /-- `LEN` (R30). -/
  len : Nat
  /-- `tape` (R29); an unlisted cell is 0. -/
  tape : Memory
  /-- `dp`, the data pointer (R23). -/
  dp : Int
  /-- `pc`, the program counter (R22). -/
  pc : Nat
  /-- `STATUS` (R25). -/
  status : Status
  /-- `JT`, the jump table (R31). -/
  jt : PositionMemory
  /-- `ri`, the scan position of the pre-pass (R32). -/
  ri : Nat
  /-- `sp`, the number of pending `[` (R32). -/
  sp : Nat
  /-- `stk`, the resolver stack (R32). -/
  stk : PositionMemory
  /-- The outside world. -/
  port : Port
  deriving DecidableEq, Repr

/-- An access the spec says must get no value (20_memory.md R50; 93_implementation_defined.md V11 to V13). All
are safe stops: the model stops where the spec gives the access no meaning, and no reachable state of the engine
makes one. -/
inductive Fault where
  /-- A tape access at `a` outside `[0, TAPE_SIZE)`. Raised by `memRead` and `memWrite`. Safe. -/
  | tapeOutOfRange (a : Int)
  /-- A fetch at `p ≥ LEN`. Raised by `fetch`. Safe. -/
  | fetchOutOfRange (p : Nat)
  /-- A fetch at a position nothing has loaded since reset. Raised by `fetch`. Safe. -/
  | progUnwritten (p : Nat)
  /-- A jump-table read at a position the resolver has not written. Raised by `readJump`. Safe. -/
  | jumpTableUnwritten (p : Nat)
  /-- A stack write at `k ≥ PROG_MAX`. Raised by `pushStack`. Safe. -/
  | stackOutOfRange (k : Nat)
  /-- A stack read at an entry no push has written. Raised by `readStack`. Safe. -/
  | stackUnwritten (k : Nat)
  deriving DecidableEq, Repr

/-- A situation the spec gives no meaning. -/
inductive Refusal where
  /-- An instruction without a meaning in this model. Raised by a refused arm of `exec`; there is none. Safe. -/
  | notModelled (mnemonic : String)
  /-- A `start` with `LEN = 0` or `LEN > PROG_MAX`: "a model must refuse such a launch" (47_host_interface.md
  R173). Raised by `hostStart`. Safe. -/
  | launchOutsideContract
  /-- A program load outside `Ready`, where "the program interface is closed" (47_host_interface.md R171; V10:
  "the host is assumed never to"). Raised by `hostLoad`. Safe. -/
  | programInterfaceClosed
  deriving DecidableEq, Repr

/-- A collaborator of which nothing is known: every answer is free. -/
def Answers.unknown {α : Type} : Answers α := { listed := [], rest := .free, draws := 0 }

/-- An outside world that makes no move, answers what it likes and has seen nothing. -/
def Port.initial : Port :=
  { moves := [], inputs := .unknown, outputs := .unknown, sent := [], answered := [] }

/-- The engine right after reset (10_state.md R35): phase `Ready`, `pc = 0`, `dp = 0`, every cell 0. `prog`, `JT`
and `stk` hold nothing; `LEN`, `ri` and `sp`, which the spec leaves unspecified, are 0 (DESIGN CHOICE, log
entry 5). -/
def State.reset : State :=
  { geom := Config.geometry
    prog := []
    len := 0
    tape := []
    dp := 0
    pc := 0
    status := .ready
    jt := []
    ri := 0
    sp := 0
    stk := []
    port := Port.initial }

end Sys2Proof.Machine
end

