-- ==== Sys2Proof/Machine/Ops.lean ====
section
/-! DEFINITION. The named operations every meaning is written over: sparse memories, the four address spaces,
register writes, raising an error, the bounds check, reset. -/

namespace Sys2Proof.Machine

/-! ### Sparse memories in one canonical form -/

/-- The entry listed for `a`, if any. -/
def storeGet {α : Type} : List (Nat × α) → Nat → Option α
  | [], _ => none
  | (k, v) :: rest, a => if k = a then some v else storeGet rest a

/-- List `v` for `a`, keeping the addresses rising. -/
def storePut {α : Type} : List (Nat × α) → Nat → α → List (Nat × α)
  | [], a, v => [(a, v)]
  | (k, w) :: rest, a, v =>
    if a < k then (a, v) :: (k, w) :: rest
    else if a = k then (a, v) :: rest
    else (k, w) :: storePut rest a v

/-- List nothing for `a`. -/
def storeErase {α : Type} : List (Nat × α) → Nat → List (Nat × α)
  | [], _ => []
  | (k, w) :: rest, a => if k = a then storeErase rest a else (k, w) :: storeErase rest a

/-- The addresses are strictly rising. -/
abbrev storeSorted {α : Type} (m : List (Nat × α)) : Prop := m.Pairwise (fun x y => x.1 < y.1)

/-- What a tape cell that is not listed holds: the reset contents, "every cell is 0 in phase `Ready`"
(10_state.md R29, R35). -/
def tapeDefault : Byte := 0

/-- The canonical form of the tape: addresses strictly rising and no entry equal to what an unlisted cell
holds, so that equal tapes are equal lists. -/
abbrev Memory.wf (m : Memory) : Prop := storeSorted m ∧ ∀ c ∈ m, c.2 ≠ tapeDefault

/-- The value of tape cell `a`. -/
def tapeGet (m : Memory) (a : Nat) : Byte := (storeGet m a).getD tapeDefault

/-- The tape with cell `a` holding `v`, in canonical form. -/
def tapePut (m : Memory) (a : Nat) (v : Byte) : Memory :=
  if v = tapeDefault then storeErase m a else storePut m a v

/-- A text as a memory, its first byte at position `p` (47_host_interface.md R172: `prog[i]` is the `i`-th byte,
"with nothing removed, added, translated or reordered"). -/
def textAt : Nat → List Byte → Memory
  | _, [] => []
  | p, c :: rest => (p, c) :: textAt (p + 1) rest

/-! ### Register and memory writes of the state -/

/-- `pc <- p` -/
def State.setPc (s : State) (p : Nat) : State := { s with pc := p }
/-- `dp <- d` -/
def State.setDp (s : State) (d : Int) : State := { s with dp := d }
/-- Replace the tape. -/
def State.setTape (s : State) (m : Memory) : State := { s with tape := m }
/-- `STATUS <- st` -/
def State.setStatus (s : State) (st : Status) : State := { s with status := st }
/-- Replace the jump table. -/
def State.setJt (s : State) (m : PositionMemory) : State := { s with jt := m }
/-- `ri <- r` -/
def State.setRi (s : State) (r : Nat) : State := { s with ri := r }
/-- `sp <- k` -/
def State.setSp (s : State) (k : Nat) : State := { s with sp := k }
/-- Replace the resolver stack. -/
def State.setStk (s : State) (m : PositionMemory) : State := { s with stk := m }
/-- Load a program: `prog` and `LEN`. -/
def State.setProgram (s : State) (m : Memory) (n : Nat) : State := { s with prog := m, len := n }
/-- Replace the outside world. -/
def State.setPort (s : State) (p : Port) : State := { s with port := p }

/-! ### The four address spaces (20_memory.md R40) -/

/-- `a` is the address of a tape cell: `0 ≤ a < TAPE_SIZE` (20_memory.md R42). -/
abbrev State.onTape (s : State) (a : Int) : Prop := 0 ≤ a ∧ a < s.geom.tapeSize

/-- `MemRead(a, 1)` (20_memory.md R42): outside the tape it gives no value (R50). -/
def memRead (s : State) (a : Int) : Except Fault Byte :=
  if s.onTape a then .ok (tapeGet s.tape a.toNat) else .error (.tapeOutOfRange a)

/-- `MemWrite(a, 1, v)` (20_memory.md R42): cell `a` takes `v`, no other cell changes. -/
def memWrite (s : State) (a : Int) (v : Byte) : Except Fault State :=
  if s.onTape a then .ok (s.setTape (tapePut s.tape a.toNat v)) else .error (.tapeOutOfRange a)

/-- `Fetch(p)` (20_memory.md R41): the character at position `p < LEN`. -/
def fetch (s : State) (p : Nat) : Except Fault Byte :=
  if p < s.len then
    match storeGet s.prog p with
    | some c => .ok c
    | none => .error (.progUnwritten p)
  else .error (.fetchOutOfRange p)

/-- `JT(p)` (20_memory.md R43): a partial map, absent where the resolver has written nothing. -/
def readJump (s : State) (p : Nat) : Except Fault Nat :=
  match storeGet s.jt p with
  | some q => .ok q
  | none => .error (.jumpTableUnwritten p)

/-- `JT(o) <- c` and `JT(c) <- o`: "record a bidirectional association" (46_jump_resolver.md R153). -/
def pairBrackets (s : State) (o c : Nat) : State := s.setJt (storePut (storePut s.jt o c) c o)

/-- `stk[k]`, read by a pop (20_memory.md R44). -/
def readStack (s : State) (k : Nat) : Except Fault Nat :=
  match storeGet s.stk k with
  | some o => .ok o
  | none => .error (.stackUnwritten k)

/-- `stk[sp] <- o ; sp <- sp + 1`, a push into one of the `PROG_MAX` entries (20_memory.md R44). -/
def pushStack (s : State) (o : Nat) : Except Fault State :=
  if s.sp < s.geom.progMax then .ok ((s.setStk (storePut s.stk s.sp o)).setSp (s.sp + 1))
  else .error (.stackOutOfRange s.sp)

/-! ### Parts every step is made of -/

/-- An outcome of the engine. -/
abbrev StepOutcome := Host.Outcome State Fault Refusal

/-- Go on with the value of an access, or stop with its fault. -/
def onOk {α : Type} (r : Except Fault α) (k : α → StepOutcome) : StepOutcome :=
  match r with
  | .ok x => k x
  | .error f => .fault f

/-- `pc <- pc + 1` (10_state.md R22). -/
def advancePc (s : State) : State := s.setPc (s.pc + 1)

/-- `raise kind` (60_exceptions.md R205): `STATUS` becomes `(Halted, kind)`. "Nothing is saved anywhere", control
goes nowhere, and there is no return (R208): only reset leaves `Halted`. -/
def raiseError (kind : ErrorKind) (s : State) : State := s.setStatus (.halted (.error kind))

/-- The bounds check at the end of every instruction step that raised no I/O error (40_dispatch.md R85). -/
def checkBounds (s : State) : State :=
  if s.onTape s.dp then s else raiseError .pointerOutOfBounds s

/-- `pc <- pc + 1`, then the bounds check: how every instruction that does not jump ends (40_dispatch.md R84). -/
def finishStep (s : State) : State := checkBounds (advancePc s)

/-- `Reset` (70_reset_and_hazards.md R240): the engine of the same sizes (R241) in its reset state. The outside
world goes on; the host's record of the run begins anew (log entry 9). -/
def resetEngine (s : State) : State :=
  { State.reset with
    geom := s.geom
    port := { s.port with sent := [], answered := [] } }

/-! ### The outside world -/

/-- Take the host's next move. -/
def dropMove (s : State) : State := s.setPort { s.port with moves := s.port.moves.tail }

/-- The next answer: the first listed one, else what follows the list. -/
def Answers.head {α : Type} (free : Nat → α) (q : Answers α) : α :=
  match q.listed with
  | a :: _ => a
  | [] =>
    match q.rest with
    | .always a => a
    | .free => free q.draws

/-- The answers after the next one. -/
def Answers.tail {α : Type} (q : Answers α) : Answers α :=
  match q.listed with
  | _ :: rest => { q with listed := rest }
  | [] =>
    match q.rest with
    | .always _ => q
    | .free => { q with draws := q.draws + 1 }

/-- What the input collaborator says at this step: an answer or, so far, nothing (47_host_interface.md R178, R179). -/
def inAnswer (s : State) : Option InAnswer := s.port.inputs.head Config.freeInAnswer

/-- Take what the input collaborator says at this step. -/
def dropInAnswer (s : State) : State := s.setPort { s.port with inputs := s.port.inputs.tail }

/-- The host records the answer it gave (47_host_interface.md R182). -/
def recordAnswer (a : InAnswer) (s : State) : State :=
  s.setPort { s.port with answered := s.port.answered ++ [a] }

/-- The host records the byte it accepted (47_host_interface.md R182). -/
def recordSent (b : Byte) (s : State) : State :=
  s.setPort { s.port with sent := s.port.sent ++ [b] }

/-- The output collaborator's answer to the `Out` of this step (47_host_interface.md R180, R181). -/
def outAnswer (s : State) : OutAnswer := s.port.outputs.head Config.freeOutAnswer

/-- That answer has been given. -/
def dropOutAnswer (s : State) : State := s.setPort { s.port with outputs := s.port.outputs.tail }

end Sys2Proof.Machine
end

