-- ==== Sys2Proof/Machine/Operands.lean ====
section
/-! DEFINITION. The implied operands (30_encoding.md R61): the active cell `tape[dp]`, the one addressing mode of
the tape (20_memory.md R42), and for the two brackets the partner position `JT(pc)`. No instruction encodes an
operand. -/

namespace Sys2Proof.Machine

/-- Read the active cell, `MemRead(dp, 1)`. -/
def readActive (s : State) : Except Fault Byte := memRead s s.dp

/-- Write the active cell, `MemWrite(dp, 1, v)`. -/
def writeActive (s : State) (v : Byte) : Except Fault State := memWrite s s.dp v

/-- The partner of the bracket at `pc`, `JT(pc)`: the target of a taken jump is "the partner's own position, not the
position after it" (44_loop.md R133). -/
def partner (s : State) : Except Fault Nat := readJump s s.pc

end Sys2Proof.Machine
end

