-- ==== Sys2Proof/Machine/CellArith.lean ====
section
/-! DEFINITION. `+` and `-` (42_cell_arith.md). -/

namespace Sys2Proof.Machine

/-- The 8-bit result of cell arithmetic: "the true result reduced modulo 256" (42_cell_arith.md R110). -/
def wrapCell (x : Int) : Byte := BitVec.ofInt 8 x

/-- The read, modify, write of `+` and `-`: the active cell takes its value plus `d`, modulo 256. -/
def addToCell (d : Int) (s : State) : StepOutcome :=
  onOk (readActive s) fun v =>
    onOk (writeActive s (wrapCell (v.toNat + d))) fun t => .next (finishStep t)

/-- `+` (R111): the active cell plus 1, "255 becomes 0". -/
def execInc (s : State) : StepOutcome := addToCell 1 s

/-- `-` (R112): the active cell minus 1, "0 becomes 255". -/
def execDec (s : State) : StepOutcome := addToCell (-1) s

end Sys2Proof.Machine
end

