-- ==== Sys2Proof/Machine/InputOutput.lean ====
section
/-! DEFINITION. `.` and `,` (43_io.md). Each makes exactly one transaction per execution (R120, R125). -/

namespace Sys2Proof.Machine

/-- What `.` does with the answer to `Out(v)` (R121). A failed write is raised before `pc` advances, so it leaves
`pc`, `dp` and the tape as they were (60_exceptions.md R207). -/
def outputEffect (v : Byte) : OutAnswer → State → State
  | .accepted, s => finishStep (recordSent v s)
  | .failed, s => raiseError .outputFailed s

/-- `.` (R121): emit the active cell. It does not block (47_host_interface.md R180). -/
def execOutput (s : State) : StepOutcome :=
  onOk (readActive s) fun v => .next (outputEffect v (outAnswer s) (dropOutAnswer s))

/-- What `,` does with the answer of `In()` (R122). At end of input the cell is left unchanged (R123). A read error
is raised before `pc` advances (60_exceptions.md R207). -/
def inputEffect : InAnswer → State → StepOutcome
  | .byte b, s => onOk (writeActive s b) fun t => .next (finishStep t)
  | .endOfInput, s => .next (finishStep s)
  | .failed, s => .next (raiseError .inputFailed s)

/-- `,` (R122): read one input byte into the active cell. Until the collaborator has an answer the step is not
enabled (R124): the engine stays as it is, and the transaction goes on waiting. -/
def execInput (s : State) : StepOutcome :=
  match inAnswer s with
  | none => .next (dropInAnswer s)
  | some a => inputEffect a (recordAnswer a (dropInAnswer s))

end Sys2Proof.Machine
end

