-- ==== Sys2Proof/Machine/Flags.lean ====
section
/-! DEFINITION. "The engine has no status flag, condition code or predicate register" (10_state.md R24). What stands
here instead: the one condition an instruction tests, and the 5-bit form of `STATUS` (R25). -/

namespace Sys2Proof.Machine

/-- The test of the two brackets, "on all 8 bits (the cell is 0 iff every bit is 0)" (44_loop.md R130). -/
def cellIsZero (v : Byte) : Bool := v == 0

/-- `STATUS[1:0]`, the field `PHASE` (10_state.md R25). -/
def phaseCode : Status → BitVec 2
  | .ready => 0
  | .resolving => 1
  | .running => 2
  | .halted _ => 3

/-- The code of an error kind (60_exceptions.md R200). -/
def errorCode : ErrorKind → BitVec 3
  | .unmatchedBracket => 2
  | .pointerOutOfBounds => 3
  | .inputFailed => 4
  | .outputFailed => 5

/-- `STATUS[4:2]`, the field `RESULT` (10_state.md R25, R27). -/
def resultCode : Status → BitVec 3
  | .ready => 0
  | .resolving => 0
  | .running => 0
  | .halted .ok => 1
  | .halted (.error kind) => errorCode kind

/-- The register `STATUS` as the host reads it: `RESULT` above `PHASE` (10_state.md R25). -/
def statusBits (st : Status) : BitVec 5 := resultCode st ++ phaseCode st

end Sys2Proof.Machine
end

