-- ==== Sys2Proof/Machine/Loop.lean ====
section
/-! DEFINITION. `[` and `]` (44_loop.md). Neither raises an error (R135). -/

namespace Sys2Proof.Machine

/-- A taken jump: `pc <- JT(pc)`, not then incremented (R130), and the bounds check every step ends in. -/
def takeJump (s : State) : StepOutcome :=
  onOk (partner s) fun q => .next (checkBounds (s.setPc q))

/-- A bracket that jumps where `taken` holds of the active cell and steps on otherwise (R130). -/
def branch (taken : Byte → Bool) (s : State) : StepOutcome :=
  onOk (readActive s) fun v => if taken v then takeJump s else .next (finishStep s)

/-- `[` (R131): skip the loop body if the active cell is 0. -/
def execOpen (s : State) : StepOutcome := branch cellIsZero s

/-- `]` (R132): repeat the loop body if the active cell is not 0. -/
def execClose (s : State) : StepOutcome := branch (fun v => !cellIsZero v) s

end Sys2Proof.Machine
end

