-- ==== Sys2Proof/Machine/Nop.lean ====
section
/-! DEFINITION. Every other character (45_nop.md). -/

namespace Sys2Proof.Machine

/-- `NOP` (R140): `pc <- pc + 1`, whatever the character, and the bounds check every step ends in. -/
def execNop (_character : Byte) (s : State) : StepOutcome := .next (finishStep s)

end Sys2Proof.Machine
end

