-- ==== Sys2Proof/Machine/PointerMove.lean ====
section
/-! DEFINITION. `>` and `<` (41_pointer_move.md). -/

namespace Sys2Proof.Machine

/-- `>` (R101): `dp <- dp + 1`, `pc <- pc + 1`, then the bounds check. -/
def execRight (s : State) : StepOutcome := .next (finishStep (s.setDp (s.dp + 1)))

/-- `<` (R102): `dp <- dp - 1`, `pc <- pc + 1`, then the bounds check. -/
def execLeft (s : State) : StepOutcome := .next (finishStep (s.setDp (s.dp - 1)))

end Sys2Proof.Machine
end

