-- ==== Sys2Proof/Machine/Dispatch.lean ====
section
/-! DEFINITION. One arm per instruction (40_dispatch.md R83): the effect of an instruction step on a state in which
that step is enabled. Which step is enabled is Machine/Engine.lean's (R81). -/

namespace Sys2Proof.Machine

def exec (i : Instr) (s : State) : Host.Outcome State Fault Refusal :=
  match i with
  | .right => Sys2Proof.Machine.execRight s
  | .left => Sys2Proof.Machine.execLeft s
  | .inc => Sys2Proof.Machine.execInc s
  | .dec => Sys2Proof.Machine.execDec s
  | .output => Sys2Proof.Machine.execOutput s
  | .input => Sys2Proof.Machine.execInput s
  | .openLoop => Sys2Proof.Machine.execOpen s
  | .closeLoop => Sys2Proof.Machine.execClose s
  | .nop c => Sys2Proof.Machine.execNop c s

end Sys2Proof.Machine
end

