-- ==== Sys2Proof/Machine/HostPort.lean ====
section
/-! DEFINITION. What the host does to the engine between steps: program load, `start`, `reset`
(47_host_interface.md). -/

namespace Sys2Proof.Machine

/-- Program load (R171, R172): in `Ready` the host writes `LEN` and `prog`, any number of times. Elsewhere the program
interface is closed. -/
def hostLoad (text : List Byte) (s : State) : StepOutcome :=
  match s.status with
  | .ready => .next (s.setProgram (textAt 0 text) text.length)
  | .resolving => .refused .programInterfaceClosed
  | .running => .refused .programInterfaceClosed
  | .halted _ => .refused .programInterfaceClosed

/-- The `start` transition (46_jump_resolver.md R152). -/
def launch (s : State) : State := ((s.setRi 0).setSp 0).setStatus .resolving

/-- The launch premises (R173). -/
abbrev launchable (s : State) : Prop := 1 ≤ s.len ∧ s.len ≤ s.geom.progMax

/-- `start` (R175): honoured in `Ready` under the launch premises, refused there without them (R173), ignored in any
other phase. -/
def hostStart (s : State) : StepOutcome :=
  match s.status with
  | .ready => if launchable s then .next (launch s) else .refused .launchOutsideContract
  | .resolving => .next s
  | .running => .next s
  | .halted _ => .next s

/-- `ListHost(bytes)` with the text it loads (R183): the host of the spec's test vectors, one among those the engine
admits. It answers at once, with the bytes and then with end of input every time, and accepts every output. -/
def Port.listHost (text bytes : List Byte) : Port :=
  { moves := [.load text, .start]
    inputs := { listed := bytes.map fun b => some (.byte b), rest := .always (some .endOfInput), draws := 0 }
    outputs := { listed := [], rest := .always .accepted, draws := 0 }
    sent := []
    answered := [] }

/-- `reset` (R174), honoured in any phase. -/
def hostReset (s : State) : StepOutcome := .next (resetEngine s)

end Sys2Proof.Machine
end

