-- ==== Sys2Proof/Machine/Resolver.lean ====
section
/-! DEFINITION. The jump-table resolver (46_jump_resolver.md): the pre-pass that pairs the brackets, one step at a
time, in phase `Resolving`. -/

namespace Sys2Proof.Machine

/-- A `[` at `ri` (R153): push its position. -/
def scanOpen (s : State) : StepOutcome :=
  onOk (pushStack s s.ri) fun t => .next (t.setRi (s.ri + 1))

/-- A `]` at `ri` (R153): with an empty stack the program is malformed; otherwise pop the most recent pending `[` and
record the pair. -/
def scanClose (s : State) : StepOutcome :=
  if s.sp = 0 then .next (raiseError .unmatchedBracket s)
  else onOk (readStack s (s.sp - 1)) fun o =>
    .next ((pairBrackets (s.setSp (s.sp - 1)) o s.ri).setRi (s.ri + 1))

/-- The scan step (R153), on the character at `ri`. Every character but the two brackets is skipped
(30_encoding.md R66). -/
def scanStep (s : State) : StepOutcome :=
  onOk (fetch s s.ri) fun c =>
    if c = codeOpen then scanOpen s
    else if c = codeClose then scanClose s
    else .next (s.setRi (s.ri + 1))

/-- The closing step (R154): "any position remaining on the stack is also an `UnmatchedBracket` error". -/
def closeStep (s : State) : State :=
  if s.sp = 0 then s.setStatus .running else raiseError .unmatchedBracket s

/-- A resolver step: a scan step while `ri` is not `LEN`, then the closing step. -/
def resolverStep (s : State) : StepOutcome :=
  if s.ri = s.len then .next (closeStep s) else scanStep s

end Sys2Proof.Machine
end

