-- ==== Sys2Proof/Machine/Engine.lean ====
section
/-! DEFINITION. Which step is enabled, by phase (40_dispatch.md R81), and what the host's move makes of it. -/

namespace Sys2Proof.Machine

/-- The instruction step (40_dispatch.md R83): fetch the character at `pc`, decode it, run it. -/
def instructionStep (s : State) : StepOutcome := onOk (fetch s s.pc) fun c => exec (decode c) s

/-- The termination transition (40_dispatch.md R86): `STATUS <- Halted(Ok)`, nothing else. -/
def terminate (s : State) : State := s.setStatus (.halted .ok)

/-- A step in phase `Running`: at `pc = LEN` the termination transition, else an instruction step. -/
def runningStep (s : State) : StepOutcome :=
  if s.pc = s.len then .next (terminate s) else instructionStep s

/-- The engine's own step. In `Ready` and in `Halted` none is enabled (40_dispatch.md R81), and the state stays as it
is. -/
def engineStep (s : State) : StepOutcome :=
  match s.status with
  | .ready => .next s
  | .resolving => resolverStep s
  | .running => runningStep s
  | .halted _ => .next s

/-- One step of engine and host: the host's next move if it has one (47_host_interface.md R174, R175), else the
engine's own step. -/
def systemStep (s : State) : StepOutcome :=
  match s.port.moves with
  | [] => engineStep s
  | .idle :: _ => engineStep (dropMove s)
  | .load text :: _ => hostLoad text (dropMove s)
  | .start :: _ => hostStart (dropMove s)
  | .reset :: _ => hostReset (dropMove s)

/-- The smallest well-formed program that holds the character `c`, and `c`'s position in it: a bracket comes with its
partner. -/
def loneProgram (c : Byte) : List Byte × Nat :=
  if c = codeOpen then ([codeOpen, codeClose], 0)
  else if c = codeClose then ([codeOpen, codeClose], 1)
  else ([c], 0)

/-- The jump table the resolver makes of `loneProgram c` (46_jump_resolver.md R156). -/
def loneTable (c : Byte) : PositionMemory :=
  if c = codeOpen ∨ c = codeClose then [(0, 1), (1, 0)] else []

/-- Answers under which the instruction of character `c` is enabled at once (43_io.md R124): an answer already listed
for it stays, and where none is listed, one is put in front. -/
def readyPort (c : Byte) (p : Port) : Port :=
  { p with
    moves := []
    inputs :=
      if c = codeInput then
        match p.inputs.listed with
        | some _ :: _ => p.inputs
        | none :: _ => { p.inputs with listed := some .endOfInput :: p.inputs.listed }
        | [] => { p.inputs with listed := [some .endOfInput] }
      else p.inputs
    outputs :=
      if c = codeOutput then
        match p.outputs.listed with
        | _ :: _ => p.outputs
        | [] => { p.outputs with listed := [.accepted] }
      else p.outputs }

/-- `s` as it stands when a program that holds `c` has been loaded, started and resolved and the next step runs the
instruction of `c` (log entry 10). -/
def placeCharacter (s : State) (c : Byte) : State :=
  { s with
    prog := textAt 0 (loneProgram c).1
    len := (loneProgram c).1.length
    pc := (loneProgram c).2
    status := .running
    jt := loneTable c
    port := readyPort c s.port }

end Sys2Proof.Machine
end

