-- ==== Sys2Proof/Machine/Step.lean ====
section
/-! DEFINITION. The step of the machine, and the placing of one instruction where the next step runs it. -/

namespace Sys2Proof.Machine

/-- One atomic step (00_scope.md R12). -/
def step (s : State) : Host.Outcome State Fault Refusal := systemStep s

/-- `s` with the instruction whose bits are the `nbits` bits of `w` where the next step runs it: loaded from outside,
the pre-pass done, phase `Running` (log entry 10). An instruction is 8 bits long (30_encoding.md R60). -/
def State.withFetchWord (s : State) (nbits w : Nat) : State :=
  placeCharacter s (BitVec.ofNat 8 (w % 2 ^ nbits))

end Sys2Proof.Machine
end

