-- ==== Sys2Proof/WellFormed.lean ====
section
/-! DEFINITION. Which terms of `Instr` are instructions of the engine. The only check there is: a `nop` holds
none of the eight instruction characters (30_encoding.md R64, 45_nop.md R140). -/

namespace Sys2Proof

/-- The character is one of the eight codes of 30_encoding.md R62. -/
def isInstructionCode (c : Byte) : Bool := opcodeTable.any (fun row => row.1 == c)

/-- `i` is an instruction of the engine: the no-operation space "is every character value except the eight"
(30_encoding.md R64). -/
def Instr.wellFormed : Instr → Bool
  | .right => true
  | .left => true
  | .inc => true
  | .dec => true
  | .output => true
  | .input => true
  | .openLoop => true
  | .closeLoop => true
  | .nop c => !isInstructionCode c

end Sys2Proof
end

