-- ==== Sys2Proof/Safety.lean ====
section
/-! DEFINITION. The words the statements are written in: bracket positions and their balance, what the pre-pass has
done so far (46_jump_resolver.md R155), what the table holds when it is done (R156), and the invariant of the engine
(40_dispatch.md R90). -/

namespace Sys2Proof.Machine

/-! ### Brackets of the program text -/

/-- Position `p` holds `[`. -/
abbrev State.openAt (s : State) (p : Nat) : Prop := p < s.len ∧ storeGet s.prog p = some codeOpen

/-- Position `p` holds `]`. -/
abbrev State.closeAt (s : State) (p : Nat) : Prop := p < s.len ∧ storeGet s.prog p = some codeClose

/-- Position `p` holds a bracket. -/
abbrev State.bracketAt (s : State) (p : Nat) : Prop := s.openAt p ∨ s.closeAt p

/-- `[` counts 1, `]` counts -1, every other character nothing (46_jump_resolver.md R158). -/
def bracketWeight (c : Byte) : Int := if c = codeOpen then 1 else if c = codeClose then -1 else 0

/-- "The count of `[` minus the count of `]`" (46_jump_resolver.md R158) among the first `n` positions. -/
def balance (prog : Memory) : Nat → Int
  | 0 => 0
  | n + 1 => balance prog n + ((storeGet prog n).map bracketWeight).getD 0

/-- A well-formed program (46_jump_resolver.md R158): the balance "never goes negative and is 0 at `LEN`". -/
def State.balanced (s : State) : Prop := (∀ n, n ≤ s.len → 0 ≤ balance s.prog n) ∧ balance s.prog s.len = 0

/-! ### The jump table -/

/-- `[` at `o` and `]` at `c` belong together: `c` is the first position after `o` at which the balance is back where
it was before `o` (46_jump_resolver.md R156 (a), (b)). -/
abbrev State.matched (s : State) (o c : Nat) : Prop :=
  s.openAt o ∧ s.closeAt c ∧ o < c ∧ balance s.prog (c + 1) = balance s.prog o ∧
    ∀ j, j ≤ c → o < j → balance s.prog o < balance s.prog j

/-- The entry `q` at `p` is right: the table is symmetric there and joins a `[` with its `]`. -/
abbrev State.entryRight (s : State) (p q : Nat) : Prop :=
  storeGet s.jt q = some p ∧ (s.matched p q ∨ s.matched q p)

/-- The jump table of a run (40_dispatch.md R90 (d), 46_jump_resolver.md R156): every bracket has its entry, every
entry is a bracket's. -/
structure State.TableRight (s : State) : Prop where
  complete : ∀ p, p < s.len → s.bracketAt p → ∃ q, q < s.len ∧ storeGet s.jt p = some q
  right : ∀ e ∈ s.jt, s.bracketAt e.1 ∧ s.entryRight e.1 e.2

/-- The `k`-th pending `[`: a position scanned already, without an entry, with `k` unclosed `[` before it and more than
`k` at every scanned place after it (46_jump_resolver.md R155). -/
abbrev State.pending (s : State) (k o : Nat) : Prop :=
  o < s.ri ∧ s.openAt o ∧ storeGet s.jt o = none ∧ balance s.prog o = k ∧
    ∀ j, j ≤ s.ri → o < j → (k : Int) < balance s.prog j

/-- What holds after any number of scan steps (46_jump_resolver.md R155), with `ri` positions scanned. -/
structure State.ScanRight (s : State) : Prop where
  ri_le : s.ri ≤ s.len
  /-- "`sp` after scanning a prefix equals its count of `[` minus its count of `]`" (R158). -/
  sp_eq : (s.sp : Int) = balance s.prog s.ri
  sp_le : s.sp ≤ s.ri
  balance_nonneg : ∀ n, n ≤ s.ri → 0 ≤ balance s.prog n
  stack : ∀ k, k < s.sp → ∃ o, o < s.len ∧ storeGet s.stk k = some o ∧ s.pending k o
  rising : ∀ k, k < s.sp → ∀ j, j < k → ∃ o, o < s.len ∧ ∃ o', o' < o ∧
    storeGet s.stk k = some o ∧ storeGet s.stk j = some o'
  /-- Every scanned bracket has an entry or is on the stack. -/
  complete : ∀ p, p < s.ri → s.bracketAt p →
    (∃ q, q < s.ri ∧ storeGet s.jt p = some q) ∨ (∃ k, k < s.sp ∧ storeGet s.stk k = some p)
  right : ∀ e ∈ s.jt, e.1 < s.ri ∧ e.2 < s.ri ∧ s.bracketAt e.1 ∧ s.entryRight e.1 e.2

/-! ### The invariant of the engine -/

/-- The phases in which no instruction of the run has executed: `Ready`, `Resolving`, and `Halted` with
`UnmatchedBracket` (40_dispatch.md R90 (f)). -/
def Status.untouched : Status → Bool
  | .ready => true
  | .resolving => true
  | .running => false
  | .halted .ok => false
  | .halted (.error .unmatchedBracket) => true
  | .halted (.error .pointerOutOfBounds) => false
  | .halted (.error .inputFailed) => false
  | .halted (.error .outputFailed) => false

/-- The canonical forms of the four memories. -/
structure State.MemoryRight (s : State) : Prop where
  prog : storeSorted s.prog
  tape : Memory.wf s.tape
  jt : storeSorted s.jt
  stk : storeSorted s.stk

/-- What holds between steps in every reachable state: 40_dispatch.md R90 (a) to (g), the launch premises
(47_host_interface.md R173) once started, and what the pre-pass guarantees. R90 (c) is the type of a cell. -/
structure State.Inv (s : State) : Prop where
  tapeSize_pos : 1 ≤ s.geom.tapeSize
  progMax_pos : 1 ≤ s.geom.progMax
  memory : s.MemoryRight
  tape_in : ∀ c ∈ s.tape, c.1 < s.geom.tapeSize
  loaded : ∀ p, p < s.len → (storeGet s.prog p).isSome
  launched : s.status ≠ .ready → launchable s
  pc_le : s.pc ≤ s.len
  fresh : s.status.untouched →
    s.tape = [] ∧ s.dp = 0 ∧ s.pc = 0 ∧ s.port.sent = [] ∧ s.port.answered = []
  dp_in : s.status ≠ .halted (.error .pointerOutOfBounds) → s.onTape s.dp
  dp_out : s.status = .halted (.error .pointerOutOfBounds) → s.dp = -1 ∨ s.dp = s.geom.tapeSize
  unresolved : s.status = .ready → s.jt = []
  scanning : s.status = .resolving → s.ScanRight
  table : s.status.untouched = false → s.TableRight
  ended : s.status = .halted .ok → s.pc = s.len

/-! ### Coming answers -/

/-- The answers after the next `n`. -/
def Answers.after {α : Type} : Nat → Answers α → Answers α
  | 0, q => q
  | n + 1, q => Answers.after n q.tail

/-- What the input collaborator says at the `n`-th coming step at which a `,` stands at `pc`. -/
def State.comingInput (s : State) (n : Nat) : Option InAnswer :=
  (s.port.inputs.after n).head Config.freeInAnswer

/-! ### Runs of one instruction -/

/-- `exec i`, `n` times over. -/
def execTimes (i : Instr) : Nat → State → StepOutcome
  | 0, s => .next s
  | n + 1, s =>
    match exec i s with
    | .next t => execTimes i n t
    | .fault f => .fault f
    | .refused r => .refused r

/-- `step`, `n` times over. -/
def stepTimes : Nat → State → StepOutcome
  | 0, s => .next s
  | n + 1, s =>
    match step s with
    | .next t => stepTimes n t
    | .fault f => .fault f
    | .refused r => .refused r

end Sys2Proof.Machine
end

