-- ==== Sys2Proof/Certificates/Slice0/Obligations.lean ====
section
/-! DEFINITION. The statements for the provers. Each docstring names the rule of `spec/` it formalises, and the log
entry where a clause rests on a choice of the model's. -/

open Sys2Proof Sys2Proof.Machine

/-! ### Encoding -/

/-- 30_encoding.md R60, R63: an instruction, encoded and followed by anything, decodes to itself and leaves the rest;
and a whole text of encoded instructions, loaded in `Ready`, is fetched and decoded position by position. -/
def Obligations.DecodeEncodeAgree : Prop :=
  (∀ (i : Instr) (rest : List Byte), i.wellFormed = true →
      decodeBytes (encodeBytes i ++ rest) = .ok (i, rest)) ∧
    ∀ (is : List Instr) (s : State), (∀ i ∈ is, i.wellFormed = true) → s.status = .ready →
      s.port.moves = [.load (is.map encode)] →
      ∃ t, step s = .next t ∧ t.len = is.length ∧
        ∀ p i, is[p]? = some i → ∃ c, fetch t p = .ok c ∧ decode c = i

/-- 30_encoding.md R63: every one of the 256 characters decodes to exactly one instruction, a well-formed one whose
encoding is that character. -/
def Obligations.EveryCharacterDecodes : Prop :=
  ∀ c : Byte, (decode c).wellFormed = true ∧ encode (decode c) = c ∧
    ∀ i : Instr, i.wellFormed = true → encode i = c → i = decode c

/-- 30_encoding.md R62: the codes of the table, written out bit by bit, decode to their instructions, and near misses
decode to `NOP`. -/
def Obligations.TableCodesDecode : Prop :=
  decode 0b00111110#8 = .right ∧ decode 0b00111100#8 = .left ∧ decode 0b00101011#8 = .inc ∧
    decode 0b00101101#8 = .dec ∧ decode 0b00101110#8 = .output ∧ decode 0b00101100#8 = .input ∧
    decode 0b01011011#8 = .openLoop ∧ decode 0b01011101#8 = .closeLoop ∧
    decode 0b00111101#8 = .nop 0x3D ∧ decode 0b01011100#8 = .nop 0x5C ∧ decode 0b00000000#8 = .nop 0x00

/-! ### What each instruction does, and where it completes -/

/-- 41_pointer_move.md R101: `>` moves the pointer up by one and advances `pc`; from the last cell it leaves
`dp = TAPE_SIZE` and halts with `PointerOutOfBounds`. -/
def Obligations.RightMovesUpOrHaltsAtTheEdge : Prop :=
  decode 0x3E = .right ∧
    ∀ s : State, s.onTape s.dp →
      exec .right s = .next
        (if s.dp + 1 = s.geom.tapeSize then
          { s with dp := s.geom.tapeSize, pc := s.pc + 1, status := .halted (.error .pointerOutOfBounds) }
        else { s with dp := s.dp + 1, pc := s.pc + 1 })

/-- 41_pointer_move.md R102: `<` moves the pointer down by one and advances `pc`; from cell 0 it leaves `dp = -1` and
halts with `PointerOutOfBounds`. -/
def Obligations.LeftMovesDownOrHaltsAtTheEdge : Prop :=
  decode 0x3C = .left ∧
    ∀ s : State, s.onTape s.dp →
      exec .left s = .next
        (if s.dp = 0 then
          { s with dp := -1, pc := s.pc + 1, status := .halted (.error .pointerOutOfBounds) }
        else { s with dp := s.dp - 1, pc := s.pc + 1 })

/-- 42_cell_arith.md R111: `+` leaves the active cell at its value plus 1 modulo 256, changes no other cell and advances
`pc`; nothing else changes. -/
def Obligations.IncAddsOneModulo256 : Prop :=
  decode 0x2B = .inc ∧
    ∀ (s : State) (v : Byte), memRead s s.dp = .ok v →
      ∃ m b, exec .inc s = .next { s with tape := m, pc := s.pc + 1 } ∧
        memRead { s with tape := m } s.dp = .ok b ∧ b.toNat = (v.toNat + 1) % 256 ∧
        ∀ a, a ≠ s.dp → memRead { s with tape := m } a = memRead s a

/-- 42_cell_arith.md R112: `-` leaves the active cell at its value minus 1 modulo 256, changes no other cell and advances
`pc`; nothing else changes. -/
def Obligations.DecSubtractsOneModulo256 : Prop :=
  decode 0x2D = .dec ∧
    ∀ (s : State) (v : Byte), memRead s s.dp = .ok v →
      ∃ m b, exec .dec s = .next { s with tape := m, pc := s.pc + 1 } ∧
        memRead { s with tape := m } s.dp = .ok b ∧ (b.toNat : Int) = ((v.toNat : Int) - 1) % 256 ∧
        ∀ a, a ≠ s.dp → memRead { s with tape := m } a = memRead s a

/-- 43_io.md R121: `.` offers the active cell. Accepted: the byte is appended to the output and `pc` advances. Failed:
the engine halts with `OutputFailed`, `pc`, `dp`, tape and output as before. Choices: the state left by the failure is
the spec's decision D13 (log entry 16); the sequence of answers, whose next one is taken, and the record in State are
the model's (log entries 8 and 9). -/
def Obligations.OutputEmitsTheCellOrHalts : Prop :=
  decode 0x2E = .output ∧
    ∀ (s : State) (v : Byte), memRead s s.dp = .ok v →
      ∀ p : Port, p = { s.port with outputs := s.port.outputs.tail } →
        (outAnswer s = .accepted →
          exec .output s = .next { s with pc := s.pc + 1, port := { p with sent := s.port.sent ++ [v] } }) ∧
        (outAnswer s = .failed →
          exec .output s = .next { s with status := .halted (.error .outputFailed), port := p })

/-- 43_io.md R122: `,` stores the byte answered and advances `pc`; at end of input it only advances `pc` (R123); on a
failed read the engine halts with `InputFailed`, `pc`, `dp` and tape as before. Choices: the state left by the failure
is the spec's decision D13 and end of input its D15 (log entry 16); the sequence of answers, whose next one is taken,
and the record, to which every answer is added, are the model's (log entries 7 and 9). -/
def Obligations.InputStoresAByteOrSkipsOrHalts : Prop :=
  decode 0x2C = .input ∧
    ∀ (s : State) (a : InAnswer), s.onTape s.dp → inAnswer s = some a →
      ∀ p : Port, p = { s.port with inputs := s.port.inputs.tail, answered := s.port.answered ++ [a] } →
        (∀ b, a = .byte b → ∃ m,
          exec .input s = .next { s with tape := m, pc := s.pc + 1, port := p } ∧
            memRead { s with tape := m } s.dp = .ok b ∧
            ∀ x, x ≠ s.dp → memRead { s with tape := m } x = memRead s x) ∧
        (a = .endOfInput → exec .input s = .next { s with pc := s.pc + 1, port := p }) ∧
        (a = .failed → exec .input s = .next { s with status := .halted (.error .inputFailed), port := p })

/-- 44_loop.md R131, R133: `[` on a zero cell goes to its partner's own position, on any other cell to the next position;
nothing else changes. -/
def Obligations.OpenJumpsOnZero : Prop :=
  decode 0x5B = .openLoop ∧
    ∀ (s : State) (v : Byte), memRead s s.dp = .ok v →
      (∀ q, v = 0 → storeGet s.jt s.pc = some q → exec .openLoop s = .next { s with pc := q }) ∧
        (v ≠ 0 → exec .openLoop s = .next { s with pc := s.pc + 1 })

/-- 44_loop.md R132, R133: `]` on a cell that is not zero goes to its partner's own position, on a zero cell to the next
position; nothing else changes. -/
def Obligations.CloseJumpsOnNonZero : Prop :=
  decode 0x5D = .closeLoop ∧
    ∀ (s : State) (v : Byte), memRead s s.dp = .ok v →
      (∀ q, v ≠ 0 → storeGet s.jt s.pc = some q → exec .closeLoop s = .next { s with pc := q }) ∧
        (v = 0 → exec .closeLoop s = .next { s with pc := s.pc + 1 })

/-- 45_nop.md R140: a character that is none of the eight changes `pc` alone. -/
def Obligations.NopOnlyAdvances : Prop :=
  (∀ c : Byte, c ∉ [0x2B#8, 0x2C#8, 0x2D#8, 0x2E#8, 0x3C#8, 0x3E#8, 0x5B#8, 0x5D#8] → decode c = .nop c) ∧
    ∀ (c : Byte) (s : State), s.onTape s.dp → exec (.nop c) s = .next { s with pc := s.pc + 1 }

/-- 20_memory.md R50, in the instructions that touch the tape: where `dp` is no cell of the tape (no reachable running
state), the access gets no value and the model stops; there is no wrap. -/
def Obligations.OffTapeAccessStops : Prop :=
  ∀ s : State, ¬ s.onTape s.dp →
    (∀ i ∈ [Instr.inc, .dec, .output, .openLoop, .closeLoop], exec i s = .fault (.tapeOutOfRange s.dp)) ∧
      ∀ b, inAnswer s = some (.byte b) → exec .input s = .fault (.tapeOutOfRange s.dp)

/-! ### Frames -/

/-- `>`, `<`: every tape cell, the program, the jump table, the resolver and the outside world are as before; `STATUS` is
as before unless the pointer has left the tape (40_dispatch.md R85). -/
def Obligations.PointerMoveFrame : Prop :=
  ∀ i ∈ [Instr.right, .left], ∀ s t : State, exec i s = .next t →
    t.geom = s.geom ∧ t.prog = s.prog ∧ t.len = s.len ∧ t.jt = s.jt ∧ t.ri = s.ri ∧ t.sp = s.sp ∧ t.stk = s.stk ∧
      t.port = s.port ∧ (∀ a, memRead t a = memRead s a) ∧ (t.onTape t.dp → t.status = s.status)

/-- `+`, `-`: the data pointer, `STATUS`, the program, the jump table, the resolver, the outside world and every tape cell
but the one at `dp` are as before. -/
def Obligations.CellArithFrame : Prop :=
  ∀ i ∈ [Instr.inc, .dec], ∀ s t : State, exec i s = .next t →
    t.geom = s.geom ∧ t.prog = s.prog ∧ t.len = s.len ∧ t.jt = s.jt ∧ t.ri = s.ri ∧ t.sp = s.sp ∧ t.stk = s.stk ∧
      t.port = s.port ∧ t.dp = s.dp ∧ t.status = s.status ∧ ∀ a, a ≠ s.dp → memRead t a = memRead s a

/-- `[`, `]`: everything but `pc` is as before, every tape cell included. -/
def Obligations.BracketFrame : Prop :=
  ∀ i ∈ [Instr.openLoop, .closeLoop], ∀ s t : State, exec i s = .next t →
    (∀ a, memRead t a = memRead s a) ∧ ∃ p, t = { s with pc := p }

/-- `NOP`: every tape cell, the data pointer, the program, the jump table, the resolver and the outside world are as
before; with the pointer on the tape, `STATUS` too. -/
def Obligations.NopFrame : Prop :=
  ∀ (c : Byte) (s t : State), exec (.nop c) s = .next t →
    t.geom = s.geom ∧ t.prog = s.prog ∧ t.len = s.len ∧ t.jt = s.jt ∧ t.ri = s.ri ∧ t.sp = s.sp ∧ t.stk = s.stk ∧
      t.port = s.port ∧ t.dp = s.dp ∧ (∀ a, memRead t a = memRead s a) ∧ (s.onTape s.dp → t.status = s.status)

/-- `.`: every tape cell, the data pointer, the program, the jump table, the resolver, the input side of the outside world
and the host's moves are as before; `STATUS` is as before unless the write failed, and the output grows by the active cell
exactly when it was accepted. -/
def Obligations.OutputFrame : Prop :=
  ∀ s t : State, exec .output s = .next t →
    t.geom = s.geom ∧ t.prog = s.prog ∧ t.len = s.len ∧ t.jt = s.jt ∧ t.ri = s.ri ∧ t.sp = s.sp ∧ t.stk = s.stk ∧
      t.dp = s.dp ∧ (∀ a, memRead t a = memRead s a) ∧ t.port.moves = s.port.moves ∧
      t.port.inputs = s.port.inputs ∧ t.port.answered = s.port.answered ∧
      (outAnswer s = .accepted →
        t.status = s.status ∧ ∃ v, memRead s s.dp = .ok v ∧ t.port.sent = s.port.sent ++ [v]) ∧
      (outAnswer s = .failed → t.port.sent = s.port.sent ∧ t.pc = s.pc)

/-- `,`: the data pointer, the program, the jump table, the resolver, the output side of the outside world and the host's
moves are as before. Every tape cell but the one at `dp` is as before, and where no byte is answered that one too. -/
def Obligations.InputFrame : Prop :=
  ∀ s t : State, exec .input s = .next t →
    t.geom = s.geom ∧ t.prog = s.prog ∧ t.len = s.len ∧ t.jt = s.jt ∧ t.ri = s.ri ∧ t.sp = s.sp ∧ t.stk = s.stk ∧
      t.dp = s.dp ∧ t.port.moves = s.port.moves ∧ t.port.sent = s.port.sent ∧
      t.port.outputs = s.port.outputs ∧
      (∀ a, a ≠ s.dp → memRead t a = memRead s a) ∧
      ((∀ b, inAnswer s ≠ some (.byte b)) → ∀ a, memRead t a = memRead s a) ∧
      (s.onTape s.dp → inAnswer s ≠ some .failed → t.status = s.status)

/-! ### The step of the machine -/

/-- 40_dispatch.md R81, R83: in `Running` with a character at `pc`, the step is the execution of the instruction it
decodes to; if the host idles, after its idle move is taken. -/
def Obligations.StepRunsTheDecodedInstruction : Prop :=
  ∀ (s : State) (c : Byte) (i : Instr), s.status = .running → s.pc < s.len → fetch s s.pc = .ok c →
    decodeBytes [c] = .ok (i, []) →
    (s.port.moves = [] → step s = exec i s) ∧
      ∀ rest, s.port.moves = .idle :: rest →
        step s = exec i { s with port := { s.port with moves := rest } }

/-- 40_dispatch.md R86: at `pc = LEN` the termination transition writes `STATUS` and nothing else. -/
def Obligations.TerminationAtTheEnd : Prop :=
  ∀ s : State, s.status = .running → s.pc = s.len → s.port.moves = [] →
    step s = .next { s with status := .halted .ok }

/-- 40_dispatch.md R81, 60_exceptions.md R205, R208: in `Ready` and in `Halted` the engine takes no step, whatever the
number of steps waited; `start` does not restart a halted engine (47_host_interface.md R175). That the model's step answers
the same state there is log entry 11. -/
def Obligations.ReadyAndHaltedStay : Prop :=
  ∀ s : State, (s.status = .ready ∨ ∃ r, s.status = .halted r) → s.port.moves = [] →
    (∀ n, stepTimes n s = .next s) ∧
      ∀ r, s.status = .halted r →
        step { s with port := { s.port with moves := [.start] } } = .next s

/-- 43_io.md R124, 70_reset_and_hazards.md R252 (2): at a `,`, as long as the input collaborator says nothing, nothing of
the engine changes, for any number of steps; if it never says anything, the engine is stuck in `Running` for ever. That a
step waiting takes the collaborator's entry, and answers the engine as it was, are log entries 7 and 11. -/
def Obligations.UnansweredInputIsStuck : Prop :=
  ∀ s : State, s.status = .running → s.pc < s.len → fetch s s.pc = .ok codeInput → s.port.moves = [] →
    (∀ n, (∀ k, k < n → s.comingInput k = none) →
      stepTimes n s = .next { s with port := { s.port with inputs := s.port.inputs.after n } }) ∧
    (s.port.inputs.listed = [] → s.port.inputs.rest = .always none → ∀ n, stepTimes n s = .next s)

/-- 70_reset_and_hazards.md R252 (1), 93_implementation_defined.md V7: endless loops are kept. At the `]` of `[]` on a cell
that is not zero (as in `+[]`) the engine goes round for ever, two steps a turn; at the `]` of `[,]` too, three steps a
turn, if the input collaborator answers end of input for ever, and only the record grows (log entries 7 and 9, and the
spec's decision D15, log entry 16). In both the engine is in `Running` after every turn, however many. -/
def Obligations.EndlessLoopsAreKept : Prop :=
  ∀ (s : State) (o : Nat) (v : Byte), s.status = .running → s.port.moves = [] → memRead s s.dp = .ok v → v ≠ 0 →
    s.openAt o → s.closeAt s.pc → storeGet s.jt s.pc = some o →
    (s.pc = o + 1 → ∀ n, stepTimes (2 * n) s = .next s ∧
      stepTimes (2 * n + 1) s = .next { s with pc := o }) ∧
    (s.pc = o + 2 → fetch s (o + 1) = .ok codeInput → s.port.inputs.listed = [] →
      s.port.inputs.rest = .always (some .endOfInput) → ∀ n,
        stepTimes (3 * n) s = .next
          { s with port := { s.port with answered := s.port.answered ++ List.replicate n .endOfInput } })

/-- 47_host_interface.md R183: what `ListHost(bytes)` answers: the bytes one after another, then end of input every time,
and every output accepted. It is one host among those R179 and R181 allow (the spec's decision D16), and its form is the
model's (log entries 7 and 8). -/
def Obligations.ListHostAnswers : Prop :=
  ∀ (s : State) (text bytes : List Byte), s.port = Port.listHost text bytes →
    (∀ k b, bytes[k]? = some b → s.comingInput k = some (.byte b)) ∧
      (∀ k, bytes.length ≤ k → s.comingInput k = some .endOfInput) ∧
      ∀ k, (s.port.outputs.after k).head Config.freeOutAnswer = .accepted

/-- 70_reset_and_hazards.md R240: reset, from any phase, zeroes the tape, `dp` and `pc` and leaves `STATUS` at `(Ready,
None)`; the sizes stay (R241). -/
def Obligations.ResetFromAnyPhase : Prop :=
  ∀ (s : State) (rest : List HostMove), s.port.moves = .reset :: rest →
    ∃ t, step s = .next t ∧ (∀ a, s.onTape a → memRead t a = .ok 0) ∧ t.dp = 0 ∧ t.pc = 0 ∧
      t.status = .ready ∧ statusBits t.status = 0 ∧ t.geom = s.geom ∧ t.port.moves = rest

/-- 10_state.md R35: the values after reset that the spec gives. -/
def Obligations.ResetValues : Prop :=
  State.reset.status = .ready ∧ phaseCode State.reset.status = 0 ∧ resultCode State.reset.status = 0 ∧
    State.reset.pc = 0 ∧ State.reset.dp = 0 ∧ State.reset.geom.tapeSize = 30000 ∧
    ∀ a, State.reset.onTape a → memRead State.reset a = .ok 0

/-- 47_host_interface.md R173, R175, 46_jump_resolver.md R152: `start` launches from `Ready` under the launch premises, is
refused there without them, and is ignored in every other phase. Choices: the premises and the refusal are the spec's
decisions D4 and D23 (log entry 12), the ignored `start` its D18; that a host's move takes a step is the model's (log
entry 6). -/
def Obligations.StartIsHonouredOnlyInReady : Prop :=
  ∀ (s : State) (rest : List HostMove), s.port.moves = .start :: rest →
    (s.status = .ready → 1 ≤ s.len → s.len ≤ s.geom.progMax →
      step s = .next
        { s with ri := 0, sp := 0, status := .resolving, port := { s.port with moves := rest } }) ∧
    (s.status = .ready → s.len = 0 ∨ s.geom.progMax < s.len → step s = .refused .launchOutsideContract) ∧
    (s.status ≠ .ready → step s = .next { s with port := { s.port with moves := rest } })

/-- 47_host_interface.md R171, R172: a load in `Ready` sets `LEN` to the byte count and `prog` to the bytes, in order,
nothing removed, and changes nothing else; elsewhere the interface is closed, and the model refuses (log entry 12). -/
def Obligations.LoadWritesTheTextInReady : Prop :=
  ∀ (s : State) (text : List Byte) (rest : List HostMove), s.port.moves = .load text :: rest →
    (s.status = .ready → ∃ m,
      step s = .next { s with prog := m, len := text.length, port := { s.port with moves := rest } } ∧
        ∀ p c, text[p]? = some c → fetch { s with prog := m, len := text.length } p = .ok c) ∧
    (s.status ≠ .ready → step s = .refused .programInterfaceClosed)

/-- 10_state.md R27: the eight legal values of the 5-bit register, and the status each stands for. -/
def Obligations.StatusTakesTheEightLegalValues : Prop :=
  statusBits .ready = 0x00#5 ∧ statusBits .resolving = 0x01#5 ∧ statusBits .running = 0x02#5 ∧
    statusBits (.halted .ok) = 0x07#5 ∧ statusBits (.halted (.error .unmatchedBracket)) = 0x0B#5 ∧
    statusBits (.halted (.error .pointerOutOfBounds)) = 0x0F#5 ∧
    statusBits (.halted (.error .inputFailed)) = 0x13#5 ∧
    statusBits (.halted (.error .outputFailed)) = 0x17#5 ∧
    ∀ st, statusBits st ∈ [0x00#5, 0x01#5, 0x02#5, 0x07#5, 0x0B#5, 0x0F#5, 0x13#5, 0x17#5]

/-- 10_state.md R28: all the transitions of `PHASE`, with what each needs. Whatever step changes `STATUS` is one of these
rows. -/
def Obligations.OnlyTheTableOfTransitions : Prop :=
  ∀ s t : State, step s = .next t → t.status ≠ s.status →
    ((∃ rest, s.port.moves = .reset :: rest) ∧ t.status = .ready) ∨
    (s.status = .ready ∧ (∃ rest, s.port.moves = .start :: rest) ∧ launchable s ∧ t.status = .resolving) ∨
    (s.status = .resolving ∧ s.ri = s.len ∧ s.sp = 0 ∧ t.status = .running) ∨
    (s.status = .resolving ∧ ((s.closeAt s.ri ∧ s.sp = 0) ∨ (s.ri = s.len ∧ s.sp ≠ 0)) ∧
      t.status = .halted (.error .unmatchedBracket)) ∨
    (s.status = .running ∧ ¬ t.onTape t.dp ∧ t.status = .halted (.error .pointerOutOfBounds)) ∨
    (s.status = .running ∧ fetch s s.pc = .ok codeInput ∧
      inAnswer s = some .failed ∧ t.status = .halted (.error .inputFailed)) ∨
    (s.status = .running ∧ fetch s s.pc = .ok codeOutput ∧ outAnswer s = .failed ∧
      t.status = .halted (.error .outputFailed)) ∨
    (s.status = .running ∧ s.pc = s.len ∧ t.status = .halted .ok)

/-- 60_exceptions.md R207: the state left by each way of halting, from any state that meets the invariant. Choices: the
two I/O rows are the spec's decision D13 and the `PointerOutOfBounds` row its D27 (log entry 16); that the failure is
added to the record of answers is the model's (log entry 9). -/
def Obligations.StateLeftByEachHalt : Prop :=
  ∀ s t : State, s.Inv → (∀ r, s.status ≠ .halted r) → step s = .next t →
    (t.status = .halted .ok →
      t.pc = t.len ∧ t.dp = s.dp ∧ t.onTape t.dp ∧ t.tape = s.tape ∧ t.port.sent = s.port.sent ∧
        t.port.answered = s.port.answered) ∧
    (t.status = .halted (.error .unmatchedBracket) →
      t.pc = 0 ∧ t.dp = 0 ∧ t.tape = [] ∧ t.port.sent = [] ∧ t.port.answered = []) ∧
    (t.status = .halted (.error .pointerOutOfBounds) →
      t.pc = s.pc + 1 ∧ t.tape = s.tape ∧ t.port.sent = s.port.sent ∧ t.port.answered = s.port.answered ∧
        ((fetch s s.pc = .ok codeRight ∧ t.dp = t.geom.tapeSize) ∨
          (fetch s s.pc = .ok codeLeft ∧ t.dp = -1))) ∧
    (t.status = .halted (.error .inputFailed) →
      t.pc = s.pc ∧ t.dp = s.dp ∧ t.tape = s.tape ∧ t.port.sent = s.port.sent ∧
        t.port.answered = s.port.answered ++ [.failed]) ∧
    (t.status = .halted (.error .outputFailed) →
      t.pc = s.pc ∧ t.dp = s.dp ∧ t.tape = s.tape ∧ t.port.sent = s.port.sent ∧
        t.port.answered = s.port.answered)

/-! ### The resolver -/

/-- 46_jump_resolver.md R153: the scan step on `[` pushes its position, on `]` with an empty stack halts, on `]` otherwise
pops and records the pair both ways, on any other character only advances `ri`. That the scan stops at the first unmatched
`]` is the spec's decision D9, and that it goes in steps its D8 (log entry 16). On a full stack, which the
launch premises exclude, the model stops with a fault (20_memory.md R44; its choice, log entry 4). -/
def Obligations.ScanStepPairsBrackets : Prop :=
  ∀ (s : State) (c : Byte), s.status = .resolving → s.ri < s.len → fetch s s.ri = .ok c → s.port.moves = [] →
    (c = 0x5B → s.sp < s.geom.progMax → ∃ m,
      step s = .next { s with stk := m, sp := s.sp + 1, ri := s.ri + 1 } ∧
        ∀ k, storeGet m k = if k = s.sp then some s.ri else storeGet s.stk k) ∧
    (c = 0x5B → s.geom.progMax ≤ s.sp → step s = .fault (.stackOutOfRange s.sp)) ∧
    (c = 0x5D → s.sp = 0 → step s = .next { s with status := .halted (.error .unmatchedBracket) }) ∧
    (∀ o, c = 0x5D → s.sp ≠ 0 → storeGet s.stk (s.sp - 1) = some o → ∃ m,
      step s = .next { s with sp := s.sp - 1, jt := m, ri := s.ri + 1 } ∧
        ∀ p, storeGet m p = if p = s.ri then some o else if p = o then some s.ri else storeGet s.jt p) ∧
    (c ≠ 0x5B → c ≠ 0x5D → step s = .next { s with ri := s.ri + 1 })

/-- 46_jump_resolver.md R154: at `ri = LEN` the pre-pass ends: `Running` with an empty stack, else `UnmatchedBracket`;
nothing but `STATUS` changes. -/
def Obligations.ClosingStepGivesTheVerdict : Prop :=
  ∀ s : State, s.status = .resolving → s.ri = s.len → s.port.moves = [] →
    (s.sp = 0 → step s = .next { s with status := .running }) ∧
      (s.sp ≠ 0 → step s = .next { s with status := .halted (.error .unmatchedBracket) })

/-- 46_jump_resolver.md R155: every scan step keeps what the pre-pass has established so far (`State.ScanRight`), from any
state whose jump table is in its canonical form. -/
def Obligations.ScanKeepsItsInvariant : Prop :=
  ∀ s t : State, s.ScanRight → storeSorted s.jt → scanStep s = .next t → t.ScanRight

/-- 46_jump_resolver.md R156: what the jump table holds while a program runs, (a) to (f). "As many `]` as `[`" from `p` to
`c` is the balance before `p` and after `c` being equal. -/
def Obligations.JumpTableHoldsThePairs : Prop :=
  ∀ s : State, s.Inv → s.status = .running →
    (∀ p, s.openAt p → ∃ c, storeGet s.jt p = some c ∧ p < c ∧ s.closeAt c ∧
      balance s.prog (c + 1) = balance s.prog p ∧
      ∀ c', p < c' → c' < c → balance s.prog (c' + 1) ≠ balance s.prog p) ∧
    (∀ p, s.closeAt p → ∃ o, storeGet s.jt p = some o ∧ o < p ∧ s.openAt o ∧
      balance s.prog (p + 1) = balance s.prog o ∧
      ∀ o', o < o' → o' < p → balance s.prog (p + 1) ≠ balance s.prog o') ∧
    (∀ p q, storeGet s.jt p = some q → storeGet s.jt q = some p) ∧
    (∀ p p' q, storeGet s.jt p = some q → storeGet s.jt p' = some q → p = p') ∧
    (∀ o₁ c₁ o₂ c₂, s.openAt o₁ → s.openAt o₂ → storeGet s.jt o₁ = some c₁ → storeGet s.jt o₂ = some c₂ →
      o₁ < o₂ → c₁ < o₂ ∨ c₂ < c₁) ∧
    (∀ p q, storeGet s.jt p = some q → s.bracketAt p)

/-- 46_jump_resolver.md R157, R158, R160: from `Ready`, `start` and at most `LEN + 1` steps of the pre-pass lead to
`Running` if the program's brackets are balanced and to `UnmatchedBracket` if not; `pc`, `dp`, tape, program and record are
untouched, and no collaborator has been asked. -/
def Obligations.StartResolvesEveryProgram : Prop :=
  ∀ s : State, s.Inv → s.status = .ready → launchable s → s.port.moves = [.start] →
    ∃ t, stepTimes (s.len + 2) s = .next t ∧
      (s.balanced → t.status = .running) ∧
      (¬ s.balanced → t.status = .halted (.error .unmatchedBracket)) ∧
      t.prog = s.prog ∧ t.len = s.len ∧ t.tape = [] ∧ t.dp = 0 ∧ t.pc = 0 ∧
      t.port = { s.port with moves := [] }

/-! ### Invariants -/

/-- The engine after reset meets the invariant of 40_dispatch.md R90. -/
def Obligations.ResetMeetsTheInvariant : Prop := State.reset.Inv

/-- 40_dispatch.md R90: every step, of the engine or the host, keeps the invariant. -/
def Obligations.EveryStepKeepsTheInvariant : Prop :=
  ∀ s t : State, s.Inv → step s = .next t → t.Inv

/-- 20_memory.md R41 to R44, R50, 40_dispatch.md R85: from a state that meets the invariant no step makes an access
outside an address space or to an unwritten entry, so the model never faults; it refuses only a `start` outside the launch
premises or a load outside `Ready` (47_host_interface.md R171, R173). That a load outside `Ready` is refused is the model's
choice (log entry 12). -/
def Obligations.NoStepFaults : Prop :=
  ∀ s : State, s.Inv →
    (∀ f, step s ≠ .fault f) ∧
      ∀ r, step s = .refused r →
        (∃ rest, s.port.moves = .start :: rest ∧ s.status = .ready ∧ ¬ launchable s ∧
          r = .launchOutsideContract) ∨
        (∃ text rest, s.port.moves = .load text :: rest ∧ s.status ≠ .ready ∧ r = .programInterfaceClosed)

/-- Every step keeps the four memories in their canonical forms, in any state. -/
def Obligations.EveryStepKeepsTheMemoryForms : Prop :=
  ∀ s t : State, s.MemoryRight → step s = .next t → t.MemoryRight

/-- Two tapes in canonical form that read the same everywhere are the same data. -/
def Obligations.CanonicalTapesAreEqualWhenTheyReadEqual : Prop :=
  ∀ m m' : Memory, Memory.wf m → Memory.wf m' → (∀ a, tapeGet m a = tapeGet m' a) → m = m'

/-- 00_scope.md R5, 10_state.md R22, R23: in a state that meets the invariant `dp` fits its `W_DP` bits of two's
complement, and once started `LEN`, `pc`, the scan registers and the table's entries fit their `W_PC` bits. -/
def Obligations.RegistersFitTheirWidths : Prop :=
  ∀ s : State, s.Inv →
    (-(2 : Int) ^ (Config.widthDp s.geom - 1) ≤ s.dp ∧ s.dp < (2 : Int) ^ (Config.widthDp s.geom - 1)) ∧
    (s.status ≠ .ready → s.len < 2 ^ Config.widthPc s.geom ∧ s.pc < 2 ^ Config.widthPc s.geom) ∧
    (s.status = .resolving → s.ri < 2 ^ Config.widthPc s.geom ∧ s.sp < 2 ^ Config.widthPc s.geom) ∧
    (s.status = .running → ∀ e ∈ s.jt, e.2 < 2 ^ Config.widthPc s.geom)

/-! ### Rules of the whole machine -/

/-- 00_scope.md R5, 10_state.md R29, 70_reset_and_hazards.md R241: "tape size is fixed at engine construction and never
resized", nor is `PROG_MAX`. -/
def Obligations.SizesNeverChange : Prop :=
  ∀ s t : State, step s = .next t → t.geom = s.geom

/-- 10_state.md R30, 20_memory.md R55: only a load in `Ready` or a reset changes the program; only the resolver or a reset
changes the jump table (R31), and only `start`, the resolver or a reset changes `ri`, `sp` and `stk` (R32). -/
def Obligations.ProgramAndTableAreReadOnly : Prop :=
  ∀ s t : State, step s = .next t → (∀ rest, s.port.moves ≠ .reset :: rest) →
    ((s.status ≠ .ready ∨ ∀ text rest, s.port.moves ≠ .load text :: rest) → t.prog = s.prog ∧ t.len = s.len) ∧
    (s.status ≠ .resolving → t.jt = s.jt ∧ t.stk = s.stk) ∧
    (s.status ≠ .resolving → s.status ≠ .ready → t.ri = s.ri ∧ t.sp = s.sp)

/-- 10_state.md R36: no step but reset writes a tape cell other than the active one, and only `+`, `-` and `,` write that
one; only `>` and `<` write `dp`. -/
def Obligations.OnlyTheActiveCellIsWritten : Prop :=
  ∀ s t : State, step s = .next t → (∀ rest, s.port.moves ≠ .reset :: rest) →
    (∀ a, a ≠ s.dp → memRead t a = memRead s a) ∧
    (memRead t s.dp ≠ memRead s s.dp →
      s.status = .running ∧ ∃ c ∈ [codeInc, codeDec, codeInput], fetch s s.pc = .ok c) ∧
    (t.dp ≠ s.dp → s.status = .running ∧ ∃ c ∈ [codeRight, codeLeft], fetch s s.pc = .ok c)

/-- 47_host_interface.md R182, 20_memory.md R52: but for reset, which begins a new run's record (log entry 9), the output
only grows, by at most the active cell, and only at a `.`. -/
def Obligations.OutputOnlyGrows : Prop :=
  ∀ s t : State, step s = .next t → (∀ rest, s.port.moves ≠ .reset :: rest) →
    t.port.sent = s.port.sent ∨
      (s.status = .running ∧ fetch s s.pc = .ok codeOutput ∧ outAnswer s = .accepted ∧
        ∃ v, memRead s s.dp = .ok v ∧ t.port.sent = s.port.sent ++ [v])

/-- 10_state.md R34: the host's record of the run is no state of the engine: a step from a state with another record is the
same step. -/
def Obligations.EngineDoesNotReadTheRecord : Prop :=
  ∀ (s : State) (sent : List Byte) (answered : List InAnswer),
    (∀ t, step s = .next t → ∃ sent' answered',
      step { s with port := { s.port with sent := sent, answered := answered } } =
        .next { t with port := { t.port with sent := sent', answered := answered' } }) ∧
    (∀ f, step s = .fault f →
      step { s with port := { s.port with sent := sent, answered := answered } } = .fault f) ∧
    (∀ r, step s = .refused r →
      step { s with port := { s.port with sent := sent, answered := answered } } = .refused r)

/-- 70_reset_and_hazards.md R253: a running engine with another `TAPE_SIZE` takes the same step, as long as the pointer is
on both tapes before and after it. -/
def Obligations.TapeSizeIsNotObservableInside : Prop :=
  ∀ (s t : State) (n : Nat), s.status = .running → s.onTape s.dp → s.dp < n → step s = .next t →
    t.onTape t.dp → t.dp < n →
    step { s with geom := { s.geom with tapeSize := n } } = .next { t with geom := { t.geom with tapeSize := n } }

/-- 47_host_interface.md R175: after `start` the engine takes its steps by itself. A host that idles at a step (log entry
6) leaves it to the engine: the step is the one of a host with no move at all, with the move taken, and never a refusal. -/
def Obligations.IdleHostLeavesTheStepToTheEngine : Prop :=
  ∀ (s : State) (rest : List HostMove), s.port.moves = .idle :: rest →
    (∀ t, step { s with port := { s.port with moves := [] } } = .next t →
      step s = .next { t with port := { t.port with moves := rest } }) ∧
    (∀ f, step { s with port := { s.port with moves := [] } } = .fault f → step s = .fault f) ∧
    ∀ r, step s ≠ .refused r

/-! ### Laws of the pairs and of repetition -/

/-- 41_pointer_move.md R103: `>` then `<` restores `dp` short of the upper edge, `<` then `>` short of the lower one; `k`
times `>` moves `k` cells up, or leaves the tape at the `>` number `TAPE_SIZE - d`. -/
def Obligations.PointerMovesUndoAndAdd : Prop :=
  ∀ s : State, s.onTape s.dp →
    (s.dp + 1 < s.geom.tapeSize → ∃ t, exec .right s = .next t ∧
      exec .left t = .next { s with pc := s.pc + 2 }) ∧
    (0 < s.dp → ∃ t, exec .left s = .next t ∧ exec .right t = .next { s with pc := s.pc + 2 }) ∧
    (∀ k : Nat, s.dp + k < s.geom.tapeSize →
      execTimes .right k s = .next { s with dp := s.dp + k, pc := s.pc + k }) ∧
    (∀ k : Nat, s.dp + k = s.geom.tapeSize →
      execTimes .right k s = .next
        { s with dp := s.geom.tapeSize, pc := s.pc + k, status := .halted (.error .pointerOutOfBounds) })

/-- 42_cell_arith.md R113: `k` times `+` takes the active cell to its value plus `k` modulo 256, `k` times `-` to its
value minus `k` modulo 256, and `+` and `-` undo each other at every value. -/
def Obligations.CellArithUndoesAndAdds : Prop :=
  ∀ (s : State) (v : Byte), memRead s s.dp = .ok v →
    (∀ k, ∃ t b, execTimes .inc k s = .next t ∧ memRead t s.dp = .ok b ∧ b.toNat = (v.toNat + k) % 256) ∧
    (∀ k : Nat, ∃ t b, execTimes .dec k s = .next t ∧ memRead t s.dp = .ok b ∧
      (b.toNat : Int) = ((v.toNat : Int) - k) % 256) ∧
    (∃ t u, exec .inc s = .next t ∧ exec .dec t = .next u ∧ memRead u s.dp = .ok v) ∧
    (∃ t u, exec .dec s = .next t ∧ exec .inc t = .next u ∧ memRead u s.dp = .ok v)

/-- 44_loop.md R133, R134: with the cell 0, a `[` takes two steps to the position after its `]`; with the cell not 0, a `]`
takes two steps to the position after its `[`; nothing but `pc` changes. -/
def Obligations.TakenBracketsLandOnTheirPartner : Prop :=
  ∀ (s : State) (v : Byte), s.Inv → s.status = .running → s.port.moves = [] → memRead s s.dp = .ok v →
    (s.openAt s.pc → v = 0 → ∃ c, s.matched s.pc c ∧ step s = .next { s with pc := c } ∧
      stepTimes 2 s = .next { s with pc := c + 1 }) ∧
    (s.closeAt s.pc → v ≠ 0 → ∃ o, s.matched o s.pc ∧ step s = .next { s with pc := o } ∧
      stepTimes 2 s = .next { s with pc := o + 1 })
end

