-- ==== Sys2Proof/Laws/Memory.lean ====
section
/-! SUPPORT. The laws of the sparse memories: a read after a write, every other address left alone, and the
canonical form kept by every operation. -/

namespace Sys2Proof.Machine

variable {α : Type}

@[simp] theorem storeGet_nil (a : Nat) : storeGet ([] : List (Nat × α)) a = none := rfl

/-- A read after a write: the value written at that address, the old one everywhere else. -/
theorem storeGet_storePut (m : List (Nat × α)) (a b : Nat) (v : α) :
    storeGet (storePut m a v) b = if b = a then some v else storeGet m b := by
  induction m with
  | nil => simp [storePut, storeGet, eq_comm]
  | cons e rest ih =>
    obtain ⟨k, w⟩ := e
    by_cases hba : b = a
    · subst hba
      by_cases h1 : b < k
      · simp [storePut, storeGet, h1]
      · by_cases h2 : b = k
        · simp [storePut, storeGet, h2]
        · simp [storePut, storeGet, h1, h2, ih, Ne.symm h2]
    · by_cases h1 : a < k
      · simp [storePut, storeGet, h1, hba, Ne.symm hba]
      · by_cases h2 : a = k
        · subst h2; simp [storePut, storeGet, hba, Ne.symm hba]
        · simp [storePut, storeGet, h1, h2, hba, ih]

@[simp] theorem storeGet_storePut_self (m : List (Nat × α)) (a : Nat) (v : α) :
    storeGet (storePut m a v) a = some v := by simp [storeGet_storePut]

theorem storeGet_storeErase (m : List (Nat × α)) (a b : Nat) :
    storeGet (storeErase m a) b = if b = a then none else storeGet m b := by
  induction m with
  | nil => simp [storeErase]
  | cons e rest ih =>
    obtain ⟨k, w⟩ := e
    by_cases hk : k = a
    · subst hk
      by_cases hb : b = k
      · subst hb; simpa [storeErase] using ih
      · simp [storeErase, storeGet, ih, hb, Ne.symm hb]
    · by_cases hkb : k = b
      · subst hkb; simp [storeErase, storeGet, hk]
      · simp [storeErase, storeGet, hk, hkb, ih]

/-- A read after a write of the tape: the value written at that cell, the old one in every other. -/
theorem tapeGet_tapePut (m : Memory) (a b : Nat) (v : Byte) :
    tapeGet (tapePut m a v) b = if b = a then v else tapeGet m b := by
  unfold tapeGet tapePut
  split
  · next h => by_cases hb : b = a <;> simp [storeGet_storeErase, hb, h]
  · by_cases hb : b = a <;> simp [storeGet_storePut, hb]

@[simp] theorem tapeGet_nil (a : Nat) : tapeGet [] a = tapeDefault := rfl

/-- What a put lists: the new entry, or one listed before at another address (or at the same one, if unsorted). -/
theorem mem_storePut {m : List (Nat × α)} {a : Nat} {v : α} {e : Nat × α}
    (h : e ∈ storePut m a v) : e = (a, v) ∨ e ∈ m := by
  induction m with
  | nil => exact .inl (by simpa [storePut] using h)
  | cons x rest ih =>
    obtain ⟨k, w⟩ := x
    unfold storePut at h
    split at h
    · exact (List.mem_cons.1 h).imp_right id
    · split at h
      · exact (List.mem_cons.1 h).imp_right (List.mem_cons_of_mem _)
      · rcases List.mem_cons.1 h with rfl | h
        · exact .inr List.mem_cons_self
        · exact (ih h).imp_right (List.mem_cons_of_mem _)

theorem mem_storeErase {m : List (Nat × α)} {a : Nat} {e : Nat × α}
    (h : e ∈ storeErase m a) : e ∈ m := by
  induction m with
  | nil => simp [storeErase] at h
  | cons x rest ih =>
    obtain ⟨k, w⟩ := x
    unfold storeErase at h
    split at h
    · exact List.mem_cons_of_mem _ (ih h)
    · rcases List.mem_cons.1 h with rfl | h
      · exact List.mem_cons_self
      · exact List.mem_cons_of_mem _ (ih h)

theorem storePut_sorted {m : List (Nat × α)} (hm : storeSorted m) (a : Nat) (v : α) :
    storeSorted (storePut m a v) := by
  induction m with
  | nil => simp [storePut]
  | cons x rest ih =>
    obtain ⟨k, w⟩ := x
    obtain ⟨hk, hrest⟩ := List.pairwise_cons.1 hm
    unfold storePut
    split
    · next h =>
      refine List.pairwise_cons.2 ⟨fun e he => ?_, hm⟩
      rcases List.mem_cons.1 he with rfl | he
      · exact h
      · exact Nat.lt_trans h (hk e he)
    · split
      · next h => exact List.pairwise_cons.2 ⟨fun e he => h ▸ hk e he, hrest⟩
      · next h1 h2 =>
        refine List.pairwise_cons.2 ⟨fun e he => ?_, ih hrest⟩
        rcases mem_storePut he with rfl | he
        · show k < a; omega
        · exact hk e he

theorem storeErase_sorted {m : List (Nat × α)} (hm : storeSorted m) (a : Nat) :
    storeSorted (storeErase m a) := by
  induction m with
  | nil => exact hm
  | cons x rest ih =>
    obtain ⟨k, w⟩ := x
    obtain ⟨hk, hrest⟩ := List.pairwise_cons.1 hm
    unfold storeErase
    split
    · exact ih hrest
    · exact List.pairwise_cons.2 ⟨fun e he => hk e (mem_storeErase he), ih hrest⟩

/-- A write of the tape keeps its canonical form. -/
theorem tapePut_wf {m : Memory} (hm : Memory.wf m) (a : Nat) (v : Byte) : Memory.wf (tapePut m a v) := by
  unfold tapePut
  split
  · exact ⟨storeErase_sorted hm.1 a, fun c hc => hm.2 c (mem_storeErase hc)⟩
  · next hv =>
    refine ⟨storePut_sorted hm.1 a v, fun c hc => ?_⟩
    rcases mem_storePut hc with rfl | hc
    · exact hv
    · exact hm.2 c hc

/-- A write at `a` lists no address that was not listed before but `a`. -/
theorem mem_tapePut {m : Memory} {a : Nat} {v : Byte} {c : Host.Cell} (h : c ∈ tapePut m a v) :
    c.1 = a ∨ c ∈ m := by
  unfold tapePut at h
  split at h
  · exact .inr (mem_storeErase h)
  · exact (mem_storePut h).imp_left (fun he => by rw [he])

theorem mem_textAt {text : List Byte} {p : Nat} {c : Host.Cell} (h : c ∈ textAt p text) : p ≤ c.1 := by
  induction text generalizing p with
  | nil => simp [textAt] at h
  | cons b rest ih =>
    rcases List.mem_cons.1 (by simpa [textAt] using h) with rfl | h
    · exact Nat.le_refl _
    · have := ih h; omega

theorem textAt_sorted (text : List Byte) (p : Nat) : storeSorted (textAt p text) := by
  induction text generalizing p with
  | nil => simp [textAt]
  | cons b rest ih =>
    exact List.pairwise_cons.2 ⟨fun e he => by have := mem_textAt he; omega, ih (p + 1)⟩

/-- The text is at its place: position `p + n` holds its `n`-th byte. -/
theorem storeGet_textAt (text : List Byte) (p n : Nat) : storeGet (textAt p text) (p + n) = text[n]? := by
  induction text generalizing p n with
  | nil => simp [textAt]
  | cons b rest ih =>
    cases n with
    | zero => simp [textAt, storeGet]
    | succ n => simpa [textAt, storeGet, Nat.add_assoc, Nat.add_comm 1 n] using ih (p + 1) n

/-- An entry that a sorted memory lists is the one it reads. -/
theorem storeGet_of_mem {m : List (Nat × α)} (hm : storeSorted m) {e : Nat × α} (he : e ∈ m) :
    storeGet m e.1 = some e.2 := by
  induction m with
  | nil => simp at he
  | cons x rest ih =>
    obtain ⟨k, w⟩ := x
    obtain ⟨hk, hrest⟩ := List.pairwise_cons.1 hm
    rcases List.mem_cons.1 he with rfl | he
    · simp [storeGet]
    · have := hk e he
      simpa [storeGet, Nat.ne_of_lt this] using ih hrest he

/-- An entry that is read is listed. -/
theorem mem_of_storeGet {m : List (Nat × α)} {a : Nat} {v : α} (h : storeGet m a = some v) : (a, v) ∈ m := by
  induction m with
  | nil => simp at h
  | cons x rest ih =>
    obtain ⟨k, w⟩ := x
    by_cases hk : k = a
    · simp [storeGet, hk] at h; subst hk; subst h; exact List.mem_cons_self
    · exact List.mem_cons_of_mem _ (ih (by simpa [storeGet, hk] using h))

end Sys2Proof.Machine
end

