-- ==== Sys2Proof/Laws/State.lean ====
section
/-! SUPPORT. One lemma per field per update, true by `rfl`, so that no proof unfolds a record update. -/

namespace Sys2Proof.Machine

section
variable (s : State) (p : Nat)
@[simp] theorem State.setPc_geom : (s.setPc p).geom = s.geom := rfl
@[simp] theorem State.setPc_prog : (s.setPc p).prog = s.prog := rfl
@[simp] theorem State.setPc_len : (s.setPc p).len = s.len := rfl
@[simp] theorem State.setPc_tape : (s.setPc p).tape = s.tape := rfl
@[simp] theorem State.setPc_dp : (s.setPc p).dp = s.dp := rfl
@[simp] theorem State.setPc_pc : (s.setPc p).pc = p := rfl
@[simp] theorem State.setPc_status : (s.setPc p).status = s.status := rfl
@[simp] theorem State.setPc_jt : (s.setPc p).jt = s.jt := rfl
@[simp] theorem State.setPc_ri : (s.setPc p).ri = s.ri := rfl
@[simp] theorem State.setPc_sp : (s.setPc p).sp = s.sp := rfl
@[simp] theorem State.setPc_stk : (s.setPc p).stk = s.stk := rfl
@[simp] theorem State.setPc_port : (s.setPc p).port = s.port := rfl
end

section
variable (s : State) (d : Int)
@[simp] theorem State.setDp_geom : (s.setDp d).geom = s.geom := rfl
@[simp] theorem State.setDp_prog : (s.setDp d).prog = s.prog := rfl
@[simp] theorem State.setDp_len : (s.setDp d).len = s.len := rfl
@[simp] theorem State.setDp_tape : (s.setDp d).tape = s.tape := rfl
@[simp] theorem State.setDp_dp : (s.setDp d).dp = d := rfl
@[simp] theorem State.setDp_pc : (s.setDp d).pc = s.pc := rfl
@[simp] theorem State.setDp_status : (s.setDp d).status = s.status := rfl
@[simp] theorem State.setDp_jt : (s.setDp d).jt = s.jt := rfl
@[simp] theorem State.setDp_ri : (s.setDp d).ri = s.ri := rfl
@[simp] theorem State.setDp_sp : (s.setDp d).sp = s.sp := rfl
@[simp] theorem State.setDp_stk : (s.setDp d).stk = s.stk := rfl
@[simp] theorem State.setDp_port : (s.setDp d).port = s.port := rfl
end

section
variable (s : State) (m : Memory)
@[simp] theorem State.setTape_geom : (s.setTape m).geom = s.geom := rfl
@[simp] theorem State.setTape_prog : (s.setTape m).prog = s.prog := rfl
@[simp] theorem State.setTape_len : (s.setTape m).len = s.len := rfl
@[simp] theorem State.setTape_tape : (s.setTape m).tape = m := rfl
@[simp] theorem State.setTape_dp : (s.setTape m).dp = s.dp := rfl
@[simp] theorem State.setTape_pc : (s.setTape m).pc = s.pc := rfl
@[simp] theorem State.setTape_status : (s.setTape m).status = s.status := rfl
@[simp] theorem State.setTape_jt : (s.setTape m).jt = s.jt := rfl
@[simp] theorem State.setTape_ri : (s.setTape m).ri = s.ri := rfl
@[simp] theorem State.setTape_sp : (s.setTape m).sp = s.sp := rfl
@[simp] theorem State.setTape_stk : (s.setTape m).stk = s.stk := rfl
@[simp] theorem State.setTape_port : (s.setTape m).port = s.port := rfl
end

section
variable (s : State) (st : Status)
@[simp] theorem State.setStatus_geom : (s.setStatus st).geom = s.geom := rfl
@[simp] theorem State.setStatus_prog : (s.setStatus st).prog = s.prog := rfl
@[simp] theorem State.setStatus_len : (s.setStatus st).len = s.len := rfl
@[simp] theorem State.setStatus_tape : (s.setStatus st).tape = s.tape := rfl
@[simp] theorem State.setStatus_dp : (s.setStatus st).dp = s.dp := rfl
@[simp] theorem State.setStatus_pc : (s.setStatus st).pc = s.pc := rfl
@[simp] theorem State.setStatus_status : (s.setStatus st).status = st := rfl
@[simp] theorem State.setStatus_jt : (s.setStatus st).jt = s.jt := rfl
@[simp] theorem State.setStatus_ri : (s.setStatus st).ri = s.ri := rfl
@[simp] theorem State.setStatus_sp : (s.setStatus st).sp = s.sp := rfl
@[simp] theorem State.setStatus_stk : (s.setStatus st).stk = s.stk := rfl
@[simp] theorem State.setStatus_port : (s.setStatus st).port = s.port := rfl
end

section
variable (s : State) (m : PositionMemory)
@[simp] theorem State.setJt_geom : (s.setJt m).geom = s.geom := rfl
@[simp] theorem State.setJt_prog : (s.setJt m).prog = s.prog := rfl
@[simp] theorem State.setJt_len : (s.setJt m).len = s.len := rfl
@[simp] theorem State.setJt_tape : (s.setJt m).tape = s.tape := rfl
@[simp] theorem State.setJt_dp : (s.setJt m).dp = s.dp := rfl
@[simp] theorem State.setJt_pc : (s.setJt m).pc = s.pc := rfl
@[simp] theorem State.setJt_status : (s.setJt m).status = s.status := rfl
@[simp] theorem State.setJt_jt : (s.setJt m).jt = m := rfl
@[simp] theorem State.setJt_ri : (s.setJt m).ri = s.ri := rfl
@[simp] theorem State.setJt_sp : (s.setJt m).sp = s.sp := rfl
@[simp] theorem State.setJt_stk : (s.setJt m).stk = s.stk := rfl
@[simp] theorem State.setJt_port : (s.setJt m).port = s.port := rfl
end

section
variable (s : State) (r : Nat)
@[simp] theorem State.setRi_geom : (s.setRi r).geom = s.geom := rfl
@[simp] theorem State.setRi_prog : (s.setRi r).prog = s.prog := rfl
@[simp] theorem State.setRi_len : (s.setRi r).len = s.len := rfl
@[simp] theorem State.setRi_tape : (s.setRi r).tape = s.tape := rfl
@[simp] theorem State.setRi_dp : (s.setRi r).dp = s.dp := rfl
@[simp] theorem State.setRi_pc : (s.setRi r).pc = s.pc := rfl
@[simp] theorem State.setRi_status : (s.setRi r).status = s.status := rfl
@[simp] theorem State.setRi_jt : (s.setRi r).jt = s.jt := rfl
@[simp] theorem State.setRi_ri : (s.setRi r).ri = r := rfl
@[simp] theorem State.setRi_sp : (s.setRi r).sp = s.sp := rfl
@[simp] theorem State.setRi_stk : (s.setRi r).stk = s.stk := rfl
@[simp] theorem State.setRi_port : (s.setRi r).port = s.port := rfl
end

section
variable (s : State) (k : Nat)
@[simp] theorem State.setSp_geom : (s.setSp k).geom = s.geom := rfl
@[simp] theorem State.setSp_prog : (s.setSp k).prog = s.prog := rfl
@[simp] theorem State.setSp_len : (s.setSp k).len = s.len := rfl
@[simp] theorem State.setSp_tape : (s.setSp k).tape = s.tape := rfl
@[simp] theorem State.setSp_dp : (s.setSp k).dp = s.dp := rfl
@[simp] theorem State.setSp_pc : (s.setSp k).pc = s.pc := rfl
@[simp] theorem State.setSp_status : (s.setSp k).status = s.status := rfl
@[simp] theorem State.setSp_jt : (s.setSp k).jt = s.jt := rfl
@[simp] theorem State.setSp_ri : (s.setSp k).ri = s.ri := rfl
@[simp] theorem State.setSp_sp : (s.setSp k).sp = k := rfl
@[simp] theorem State.setSp_stk : (s.setSp k).stk = s.stk := rfl
@[simp] theorem State.setSp_port : (s.setSp k).port = s.port := rfl
end

section
variable (s : State) (m : PositionMemory)
@[simp] theorem State.setStk_geom : (s.setStk m).geom = s.geom := rfl
@[simp] theorem State.setStk_prog : (s.setStk m).prog = s.prog := rfl
@[simp] theorem State.setStk_len : (s.setStk m).len = s.len := rfl
@[simp] theorem State.setStk_tape : (s.setStk m).tape = s.tape := rfl
@[simp] theorem State.setStk_dp : (s.setStk m).dp = s.dp := rfl
@[simp] theorem State.setStk_pc : (s.setStk m).pc = s.pc := rfl
@[simp] theorem State.setStk_status : (s.setStk m).status = s.status := rfl
@[simp] theorem State.setStk_jt : (s.setStk m).jt = s.jt := rfl
@[simp] theorem State.setStk_ri : (s.setStk m).ri = s.ri := rfl
@[simp] theorem State.setStk_sp : (s.setStk m).sp = s.sp := rfl
@[simp] theorem State.setStk_stk : (s.setStk m).stk = m := rfl
@[simp] theorem State.setStk_port : (s.setStk m).port = s.port := rfl
end

section
variable (s : State) (p : Port)
@[simp] theorem State.setPort_geom : (s.setPort p).geom = s.geom := rfl
@[simp] theorem State.setPort_prog : (s.setPort p).prog = s.prog := rfl
@[simp] theorem State.setPort_len : (s.setPort p).len = s.len := rfl
@[simp] theorem State.setPort_tape : (s.setPort p).tape = s.tape := rfl
@[simp] theorem State.setPort_dp : (s.setPort p).dp = s.dp := rfl
@[simp] theorem State.setPort_pc : (s.setPort p).pc = s.pc := rfl
@[simp] theorem State.setPort_status : (s.setPort p).status = s.status := rfl
@[simp] theorem State.setPort_jt : (s.setPort p).jt = s.jt := rfl
@[simp] theorem State.setPort_ri : (s.setPort p).ri = s.ri := rfl
@[simp] theorem State.setPort_sp : (s.setPort p).sp = s.sp := rfl
@[simp] theorem State.setPort_stk : (s.setPort p).stk = s.stk := rfl
@[simp] theorem State.setPort_port : (s.setPort p).port = p := rfl
end

section
variable (s : State) (m : Memory) (n : Nat)
@[simp] theorem State.setProgram_geom : (s.setProgram m n).geom = s.geom := rfl
@[simp] theorem State.setProgram_prog : (s.setProgram m n).prog = m := rfl
@[simp] theorem State.setProgram_len : (s.setProgram m n).len = n := rfl
@[simp] theorem State.setProgram_tape : (s.setProgram m n).tape = s.tape := rfl
@[simp] theorem State.setProgram_dp : (s.setProgram m n).dp = s.dp := rfl
@[simp] theorem State.setProgram_pc : (s.setProgram m n).pc = s.pc := rfl
@[simp] theorem State.setProgram_status : (s.setProgram m n).status = s.status := rfl
@[simp] theorem State.setProgram_jt : (s.setProgram m n).jt = s.jt := rfl
@[simp] theorem State.setProgram_ri : (s.setProgram m n).ri = s.ri := rfl
@[simp] theorem State.setProgram_sp : (s.setProgram m n).sp = s.sp := rfl
@[simp] theorem State.setProgram_stk : (s.setProgram m n).stk = s.stk := rfl
@[simp] theorem State.setProgram_port : (s.setProgram m n).port = s.port := rfl
end

section
variable (s : State)
@[simp] theorem advancePc_geom : (advancePc s).geom = s.geom := rfl
@[simp] theorem advancePc_prog : (advancePc s).prog = s.prog := rfl
@[simp] theorem advancePc_len : (advancePc s).len = s.len := rfl
@[simp] theorem advancePc_tape : (advancePc s).tape = s.tape := rfl
@[simp] theorem advancePc_dp : (advancePc s).dp = s.dp := rfl
@[simp] theorem advancePc_pc : (advancePc s).pc = s.pc + 1 := rfl
@[simp] theorem advancePc_status : (advancePc s).status = s.status := rfl
@[simp] theorem advancePc_jt : (advancePc s).jt = s.jt := rfl
@[simp] theorem advancePc_ri : (advancePc s).ri = s.ri := rfl
@[simp] theorem advancePc_sp : (advancePc s).sp = s.sp := rfl
@[simp] theorem advancePc_stk : (advancePc s).stk = s.stk := rfl
@[simp] theorem advancePc_port : (advancePc s).port = s.port := rfl
end

section
variable (kind : ErrorKind) (s : State)
@[simp] theorem raiseError_geom : (raiseError kind s).geom = s.geom := rfl
@[simp] theorem raiseError_prog : (raiseError kind s).prog = s.prog := rfl
@[simp] theorem raiseError_len : (raiseError kind s).len = s.len := rfl
@[simp] theorem raiseError_tape : (raiseError kind s).tape = s.tape := rfl
@[simp] theorem raiseError_dp : (raiseError kind s).dp = s.dp := rfl
@[simp] theorem raiseError_pc : (raiseError kind s).pc = s.pc := rfl
@[simp] theorem raiseError_status : (raiseError kind s).status = .halted (.error kind) := rfl
@[simp] theorem raiseError_jt : (raiseError kind s).jt = s.jt := rfl
@[simp] theorem raiseError_ri : (raiseError kind s).ri = s.ri := rfl
@[simp] theorem raiseError_sp : (raiseError kind s).sp = s.sp := rfl
@[simp] theorem raiseError_stk : (raiseError kind s).stk = s.stk := rfl
@[simp] theorem raiseError_port : (raiseError kind s).port = s.port := rfl
end

section
variable (s : State)
@[simp] theorem dropMove_geom : (dropMove s).geom = s.geom := rfl
@[simp] theorem dropMove_prog : (dropMove s).prog = s.prog := rfl
@[simp] theorem dropMove_len : (dropMove s).len = s.len := rfl
@[simp] theorem dropMove_tape : (dropMove s).tape = s.tape := rfl
@[simp] theorem dropMove_dp : (dropMove s).dp = s.dp := rfl
@[simp] theorem dropMove_pc : (dropMove s).pc = s.pc := rfl
@[simp] theorem dropMove_status : (dropMove s).status = s.status := rfl
@[simp] theorem dropMove_jt : (dropMove s).jt = s.jt := rfl
@[simp] theorem dropMove_ri : (dropMove s).ri = s.ri := rfl
@[simp] theorem dropMove_sp : (dropMove s).sp = s.sp := rfl
@[simp] theorem dropMove_stk : (dropMove s).stk = s.stk := rfl
@[simp] theorem dropMove_port : (dropMove s).port = { s.port with moves := s.port.moves.tail } := rfl
end

section
variable (s : State)
@[simp] theorem dropInAnswer_geom : (dropInAnswer s).geom = s.geom := rfl
@[simp] theorem dropInAnswer_prog : (dropInAnswer s).prog = s.prog := rfl
@[simp] theorem dropInAnswer_len : (dropInAnswer s).len = s.len := rfl
@[simp] theorem dropInAnswer_tape : (dropInAnswer s).tape = s.tape := rfl
@[simp] theorem dropInAnswer_dp : (dropInAnswer s).dp = s.dp := rfl
@[simp] theorem dropInAnswer_pc : (dropInAnswer s).pc = s.pc := rfl
@[simp] theorem dropInAnswer_status : (dropInAnswer s).status = s.status := rfl
@[simp] theorem dropInAnswer_jt : (dropInAnswer s).jt = s.jt := rfl
@[simp] theorem dropInAnswer_ri : (dropInAnswer s).ri = s.ri := rfl
@[simp] theorem dropInAnswer_sp : (dropInAnswer s).sp = s.sp := rfl
@[simp] theorem dropInAnswer_stk : (dropInAnswer s).stk = s.stk := rfl
@[simp] theorem dropInAnswer_port : (dropInAnswer s).port = { s.port with inputs := s.port.inputs.tail } := rfl
end

section
variable (a : InAnswer) (s : State)
@[simp] theorem recordAnswer_geom : (recordAnswer a s).geom = s.geom := rfl
@[simp] theorem recordAnswer_prog : (recordAnswer a s).prog = s.prog := rfl
@[simp] theorem recordAnswer_len : (recordAnswer a s).len = s.len := rfl
@[simp] theorem recordAnswer_tape : (recordAnswer a s).tape = s.tape := rfl
@[simp] theorem recordAnswer_dp : (recordAnswer a s).dp = s.dp := rfl
@[simp] theorem recordAnswer_pc : (recordAnswer a s).pc = s.pc := rfl
@[simp] theorem recordAnswer_status : (recordAnswer a s).status = s.status := rfl
@[simp] theorem recordAnswer_jt : (recordAnswer a s).jt = s.jt := rfl
@[simp] theorem recordAnswer_ri : (recordAnswer a s).ri = s.ri := rfl
@[simp] theorem recordAnswer_sp : (recordAnswer a s).sp = s.sp := rfl
@[simp] theorem recordAnswer_stk : (recordAnswer a s).stk = s.stk := rfl
@[simp] theorem recordAnswer_port : (recordAnswer a s).port = { s.port with answered := s.port.answered ++ [a] } := rfl
end

section
variable (b : Byte) (s : State)
@[simp] theorem recordSent_geom : (recordSent b s).geom = s.geom := rfl
@[simp] theorem recordSent_prog : (recordSent b s).prog = s.prog := rfl
@[simp] theorem recordSent_len : (recordSent b s).len = s.len := rfl
@[simp] theorem recordSent_tape : (recordSent b s).tape = s.tape := rfl
@[simp] theorem recordSent_dp : (recordSent b s).dp = s.dp := rfl
@[simp] theorem recordSent_pc : (recordSent b s).pc = s.pc := rfl
@[simp] theorem recordSent_status : (recordSent b s).status = s.status := rfl
@[simp] theorem recordSent_jt : (recordSent b s).jt = s.jt := rfl
@[simp] theorem recordSent_ri : (recordSent b s).ri = s.ri := rfl
@[simp] theorem recordSent_sp : (recordSent b s).sp = s.sp := rfl
@[simp] theorem recordSent_stk : (recordSent b s).stk = s.stk := rfl
@[simp] theorem recordSent_port : (recordSent b s).port = { s.port with sent := s.port.sent ++ [b] } := rfl
end

section
variable (s : State) (o c : Nat)
@[simp] theorem pairBrackets_geom : (pairBrackets s o c).geom = s.geom := rfl
@[simp] theorem pairBrackets_prog : (pairBrackets s o c).prog = s.prog := rfl
@[simp] theorem pairBrackets_len : (pairBrackets s o c).len = s.len := rfl
@[simp] theorem pairBrackets_tape : (pairBrackets s o c).tape = s.tape := rfl
@[simp] theorem pairBrackets_dp : (pairBrackets s o c).dp = s.dp := rfl
@[simp] theorem pairBrackets_pc : (pairBrackets s o c).pc = s.pc := rfl
@[simp] theorem pairBrackets_status : (pairBrackets s o c).status = s.status := rfl
@[simp] theorem pairBrackets_jt : (pairBrackets s o c).jt = storePut (storePut s.jt o c) c o := rfl
@[simp] theorem pairBrackets_ri : (pairBrackets s o c).ri = s.ri := rfl
@[simp] theorem pairBrackets_sp : (pairBrackets s o c).sp = s.sp := rfl
@[simp] theorem pairBrackets_stk : (pairBrackets s o c).stk = s.stk := rfl
@[simp] theorem pairBrackets_port : (pairBrackets s o c).port = s.port := rfl
end

section
variable (s : State)
@[simp] theorem resetEngine_geom : (resetEngine s).geom = s.geom := rfl
@[simp] theorem resetEngine_prog : (resetEngine s).prog = [] := rfl
@[simp] theorem resetEngine_len : (resetEngine s).len = 0 := rfl
@[simp] theorem resetEngine_tape : (resetEngine s).tape = [] := rfl
@[simp] theorem resetEngine_dp : (resetEngine s).dp = 0 := rfl
@[simp] theorem resetEngine_pc : (resetEngine s).pc = 0 := rfl
@[simp] theorem resetEngine_status : (resetEngine s).status = .ready := rfl
@[simp] theorem resetEngine_jt : (resetEngine s).jt = [] := rfl
@[simp] theorem resetEngine_ri : (resetEngine s).ri = 0 := rfl
@[simp] theorem resetEngine_sp : (resetEngine s).sp = 0 := rfl
@[simp] theorem resetEngine_stk : (resetEngine s).stk = [] := rfl
@[simp] theorem resetEngine_port : (resetEngine s).port = { s.port with sent := [], answered := [] } := rfl
end

section
variable (s : State)
@[simp] theorem dropOutAnswer_geom : (dropOutAnswer s).geom = s.geom := rfl
@[simp] theorem dropOutAnswer_prog : (dropOutAnswer s).prog = s.prog := rfl
@[simp] theorem dropOutAnswer_len : (dropOutAnswer s).len = s.len := rfl
@[simp] theorem dropOutAnswer_tape : (dropOutAnswer s).tape = s.tape := rfl
@[simp] theorem dropOutAnswer_dp : (dropOutAnswer s).dp = s.dp := rfl
@[simp] theorem dropOutAnswer_pc : (dropOutAnswer s).pc = s.pc := rfl
@[simp] theorem dropOutAnswer_status : (dropOutAnswer s).status = s.status := rfl
@[simp] theorem dropOutAnswer_jt : (dropOutAnswer s).jt = s.jt := rfl
@[simp] theorem dropOutAnswer_ri : (dropOutAnswer s).ri = s.ri := rfl
@[simp] theorem dropOutAnswer_sp : (dropOutAnswer s).sp = s.sp := rfl
@[simp] theorem dropOutAnswer_stk : (dropOutAnswer s).stk = s.stk := rfl
@[simp] theorem dropOutAnswer_port : (dropOutAnswer s).port = { s.port with outputs := s.port.outputs.tail } := rfl
@[simp] theorem checkBounds_geom : (checkBounds s).geom = s.geom := by
  unfold checkBounds; split <;> rfl
@[simp] theorem checkBounds_prog : (checkBounds s).prog = s.prog := by
  unfold checkBounds; split <;> rfl
@[simp] theorem checkBounds_len : (checkBounds s).len = s.len := by
  unfold checkBounds; split <;> rfl
@[simp] theorem checkBounds_tape : (checkBounds s).tape = s.tape := by
  unfold checkBounds; split <;> rfl
@[simp] theorem checkBounds_dp : (checkBounds s).dp = s.dp := by
  unfold checkBounds; split <;> rfl
@[simp] theorem checkBounds_pc : (checkBounds s).pc = s.pc := by
  unfold checkBounds; split <;> rfl
@[simp] theorem checkBounds_jt : (checkBounds s).jt = s.jt := by
  unfold checkBounds; split <;> rfl
@[simp] theorem checkBounds_ri : (checkBounds s).ri = s.ri := by
  unfold checkBounds; split <;> rfl
@[simp] theorem checkBounds_sp : (checkBounds s).sp = s.sp := by
  unfold checkBounds; split <;> rfl
@[simp] theorem checkBounds_stk : (checkBounds s).stk = s.stk := by
  unfold checkBounds; split <;> rfl
@[simp] theorem checkBounds_port : (checkBounds s).port = s.port := by
  unfold checkBounds; split <;> rfl
@[simp] theorem finishStep_geom : (finishStep s).geom = s.geom := by
  simp [finishStep]
@[simp] theorem finishStep_prog : (finishStep s).prog = s.prog := by
  simp [finishStep]
@[simp] theorem finishStep_len : (finishStep s).len = s.len := by
  simp [finishStep]
@[simp] theorem finishStep_tape : (finishStep s).tape = s.tape := by
  simp [finishStep]
@[simp] theorem finishStep_dp : (finishStep s).dp = s.dp := by
  simp [finishStep]
@[simp] theorem finishStep_pc : (finishStep s).pc = s.pc + 1 := by
  simp [finishStep]
@[simp] theorem finishStep_jt : (finishStep s).jt = s.jt := by
  simp [finishStep]
@[simp] theorem finishStep_ri : (finishStep s).ri = s.ri := by
  simp [finishStep]
@[simp] theorem finishStep_sp : (finishStep s).sp = s.sp := by
  simp [finishStep]
@[simp] theorem finishStep_stk : (finishStep s).stk = s.stk := by
  simp [finishStep]
@[simp] theorem finishStep_port : (finishStep s).port = s.port := by
  simp [finishStep]
end

end Sys2Proof.Machine
end

