-- ==== Sys2Proof/Laws/Ops.lean ====
section
/-! SUPPORT. What each shared operation can do, said once. -/

namespace Sys2Proof.Machine

section OnOk
variable {α : Type} {r : Except Fault α} {k : α → StepOutcome}

@[simp] theorem onOk_ok (x : α) (k : α → StepOutcome) : onOk (.ok x) k = k x := rfl
@[simp] theorem onOk_error (f : Fault) (k : α → StepOutcome) : onOk (.error f) k = .fault f := rfl

/-- A next state comes from a value. -/
theorem onOk_next {t : State} : onOk r k = .next t ↔ ∃ x, r = .ok x ∧ k x = .next t := by
  cases r <;> simp

/-- A fault is the access's, or comes after its value. -/
theorem onOk_fault {f : Fault} : onOk r k = .fault f ↔ r = .error f ∨ ∃ x, r = .ok x ∧ k x = .fault f := by
  cases r <;> simp

/-- An access refuses nothing. -/
theorem onOk_refused {q : Refusal} : onOk r k = .refused q ↔ ∃ x, r = .ok x ∧ k x = .refused q := by
  cases r <;> simp

end OnOk

section Access
variable {s t : State} {a : Int} {v : Byte}

theorem memRead_ok : memRead s a = .ok v ↔ s.onTape a ∧ v = tapeGet s.tape a.toNat := by
  unfold memRead
  split
  · next h => exact ⟨fun e => ⟨h, (Except.ok.inj e).symm⟩, fun e => by rw [e.2]⟩
  · next h => exact ⟨fun e => by simp at e, fun e => absurd e.1 h⟩

theorem memRead_error {f : Fault} : memRead s a = .error f ↔ ¬ s.onTape a ∧ f = .tapeOutOfRange a := by
  unfold memRead
  split
  · next h => exact ⟨fun e => by simp at e, fun e => absurd h e.1⟩
  · next h => exact ⟨fun e => ⟨h, (Except.error.inj e).symm⟩, fun e => by rw [e.2]⟩

theorem memWrite_ok :
    memWrite s a v = .ok t ↔ s.onTape a ∧ t = s.setTape (tapePut s.tape a.toNat v) := by
  unfold memWrite
  split
  · next h => exact ⟨fun e => ⟨h, (Except.ok.inj e).symm⟩, fun e => by rw [e.2]⟩
  · next h => exact ⟨fun e => by simp at e, fun e => absurd e.1 h⟩

theorem memWrite_error {f : Fault} : memWrite s a v = .error f ↔ ¬ s.onTape a ∧ f = .tapeOutOfRange a := by
  unfold memWrite
  split
  · next h => exact ⟨fun e => by simp at e, fun e => absurd h e.1⟩
  · next h => exact ⟨fun e => ⟨h, (Except.error.inj e).symm⟩, fun e => by rw [e.2]⟩

theorem fetch_ok {p : Nat} {c : Byte} : fetch s p = .ok c ↔ p < s.len ∧ storeGet s.prog p = some c := by
  unfold fetch
  split
  · next h => cases hg : storeGet s.prog p <;> simp [h]
  · next h => simp [h]

theorem readJump_ok {p q : Nat} : readJump s p = .ok q ↔ storeGet s.jt p = some q := by
  unfold readJump; cases storeGet s.jt p <;> simp

theorem readStack_ok {k o : Nat} : readStack s k = .ok o ↔ storeGet s.stk k = some o := by
  unfold readStack; cases storeGet s.stk k <;> simp

theorem pushStack_ok {o : Nat} :
    pushStack s o = .ok t ↔
      s.sp < s.geom.progMax ∧ t = (s.setStk (storePut s.stk s.sp o)).setSp (s.sp + 1) := by
  unfold pushStack; split <;> simp_all [eq_comm]

end Access

section CanonicalForm
variable {s t : State}

/-- `MemWrite` keeps the tape's canonical form. -/
theorem memWrite_wf {a : Int} {v : Byte} (hs : Memory.wf s.tape) (h : memWrite s a v = .ok t) :
    Memory.wf t.tape := by
  obtain ⟨_, rfl⟩ := memWrite_ok.1 h
  exact tapePut_wf hs _ _

/-- A push keeps the stack's canonical form. -/
theorem pushStack_sorted {o : Nat} (hs : storeSorted s.stk) (h : pushStack s o = .ok t) :
    storeSorted t.stk := by
  obtain ⟨_, rfl⟩ := pushStack_ok.1 h
  exact storePut_sorted hs _ _

/-- Recording a pair keeps the jump table's canonical form. -/
theorem pairBrackets_sorted {o c : Nat} (hs : storeSorted s.jt) : storeSorted (pairBrackets s o c).jt :=
  storePut_sorted (storePut_sorted hs _ _) _ _

/-- The memories after reset are in canonical form. -/
theorem reset_memories : Memory.wf State.reset.tape ∧ storeSorted State.reset.prog ∧
    storeSorted State.reset.jt ∧ storeSorted State.reset.stk := by
  decide

end CanonicalForm

section Bounds
variable {s : State}

/-- In range, the bounds check changes nothing. -/
@[simp] theorem checkBounds_of_onTape (h : s.onTape s.dp) : checkBounds s = s := if_pos h

/-- Out of range, it raises `PointerOutOfBounds`. -/
theorem checkBounds_of_offTape (h : ¬ s.onTape s.dp) : checkBounds s = raiseError .pointerOutOfBounds s := if_neg h

/-- A step that leaves `dp` in range just advances `pc`. -/
theorem finishStep_of_onTape (h : s.onTape s.dp) : finishStep s = advancePc s := if_pos h

theorem finishStep_of_offTape (h : ¬ s.onTape s.dp) :
    finishStep s = raiseError .pointerOutOfBounds (advancePc s) := if_neg h

end Bounds

/-! ### The answers of a collaborator -/

section Answers
variable {α : Type} (free : Nat → α) (a : α) (rest : List α) (r : Rest α) (n : Nat)

@[simp] theorem Answers.head_listed : Answers.head free ⟨a :: rest, r, n⟩ = a := rfl
@[simp] theorem Answers.head_always : Answers.head free ⟨[], .always a, n⟩ = a := rfl
@[simp] theorem Answers.head_free : Answers.head free ⟨[], .free, n⟩ = free n := rfl
@[simp] theorem Answers.tail_listed : Answers.tail ⟨a :: rest, r, n⟩ = ⟨rest, r, n⟩ := rfl
@[simp] theorem Answers.tail_always : Answers.tail ⟨[], .always a, n⟩ = ⟨[], .always a, n⟩ := rfl
@[simp] theorem Answers.tail_free : Answers.tail (⟨[], .free, n⟩ : Answers α) = ⟨[], .free, n + 1⟩ := rfl

end Answers

end Sys2Proof.Machine
end

