-- ==== Sys2Proof/Laws/Meanings.lean ====
section
/-! SUPPORT. What each meaning, the resolver's step and the step of the machine can do when they answer a next state:
one inversion lemma each, which later proofs cite instead of unfolding. -/

namespace Sys2Proof.Machine

variable {s t : State}

/-- `+` and `-`: the active cell is on the tape, it takes the wrapped sum, and the step ends. -/
theorem addToCell_next {d : Int} (h : addToCell d s = .next t) :
    s.onTape s.dp ∧
      t = advancePc (s.setTape (tapePut s.tape s.dp.toNat (wrapCell ((tapeGet s.tape s.dp.toNat).toNat + d)))) := by
  obtain ⟨v, hv, h⟩ := onOk_next.1 h
  obtain ⟨hon, rfl⟩ := memRead_ok.1 hv
  obtain ⟨u, hu, h⟩ := onOk_next.1 h
  obtain ⟨_, rfl⟩ := memWrite_ok.1 hu
  refine ⟨hon, ?_⟩
  rw [finishStep_of_onTape (by simpa [State.onTape] using hon)] at h
  exact (Host.Outcome.next.inj h).symm

/-- `.`: the active cell is on the tape; it was accepted and recorded, or the run has ended with `OutputFailed`. -/
theorem execOutput_next (h : execOutput s = .next t) :
    s.onTape s.dp ∧
      ((outAnswer s = .accepted ∧
          t = advancePc (recordSent (tapeGet s.tape s.dp.toNat) (dropOutAnswer s))) ∨
        (outAnswer s = .failed ∧ t = raiseError .outputFailed (dropOutAnswer s))) := by
  obtain ⟨v, hv, h⟩ := onOk_next.1 h
  obtain ⟨hon, rfl⟩ := memRead_ok.1 hv
  refine ⟨hon, ?_⟩
  have h := Host.Outcome.next.inj h
  cases ha : outAnswer s with
  | accepted =>
    rw [ha, outputEffect, finishStep_of_onTape (by simpa [State.onTape] using hon)] at h
    exact .inl ⟨rfl, h.symm⟩
  | failed =>
    rw [ha, outputEffect] at h
    exact .inr ⟨rfl, h.symm⟩

/-- `,`: no answer yet, a byte stored, end of input, or the run has ended with `InputFailed`. -/
theorem execInput_next (h : execInput s = .next t) :
    (inAnswer s = none ∧ t = dropInAnswer s) ∨
      (∃ b, inAnswer s = some (.byte b) ∧ s.onTape s.dp ∧
        t = advancePc ((recordAnswer (.byte b) (dropInAnswer s)).setTape (tapePut s.tape s.dp.toNat b))) ∨
      (inAnswer s = some .endOfInput ∧ t = finishStep (recordAnswer .endOfInput (dropInAnswer s))) ∨
      (inAnswer s = some .failed ∧ t = raiseError .inputFailed (recordAnswer .failed (dropInAnswer s))) := by
  unfold execInput at h
  split at h
  · next hq => exact .inl ⟨hq, (Host.Outcome.next.inj h).symm⟩
  · next a hq =>
    cases a with
    | byte b =>
      obtain ⟨u, hu, h⟩ := onOk_next.1 h
      obtain ⟨hon, rfl⟩ := memWrite_ok.1 hu
      have hon : s.onTape s.dp := by simpa [State.onTape] using hon
      rw [finishStep_of_onTape (by simpa [State.onTape] using hon)] at h
      exact .inr (.inl ⟨b, hq, hon, (Host.Outcome.next.inj h).symm⟩)
    | endOfInput => exact .inr (.inr (.inl ⟨hq, (Host.Outcome.next.inj h).symm⟩))
    | failed => exact .inr (.inr (.inr ⟨hq, (Host.Outcome.next.inj h).symm⟩))

/-- `[` and `]`: the active cell is on the tape; the jump is taken to the partner, or the step goes on. -/
theorem branch_next {taken : Byte → Bool} (h : branch taken s = .next t) :
    s.onTape s.dp ∧
      ((∃ q, taken (tapeGet s.tape s.dp.toNat) = true ∧ storeGet s.jt s.pc = some q ∧ t = s.setPc q) ∨
        (taken (tapeGet s.tape s.dp.toNat) = false ∧ t = advancePc s)) := by
  obtain ⟨v, hv, h⟩ := onOk_next.1 h
  obtain ⟨hon, rfl⟩ := memRead_ok.1 hv
  refine ⟨hon, ?_⟩
  split at h
  · next ht =>
    obtain ⟨q, hq, h⟩ := onOk_next.1 h
    rw [checkBounds_of_onTape (by simpa [State.onTape] using hon)] at h
    exact .inl ⟨q, ht, readJump_ok.1 hq, (Host.Outcome.next.inj h).symm⟩
  · next ht =>
    rw [finishStep_of_onTape hon] at h
    exact .inr ⟨by simpa using ht, (Host.Outcome.next.inj h).symm⟩

/-- The scan step: a push, a pop that records a pair, an unmatched `]`, or a character skipped. -/
theorem scanStep_next (h : scanStep s = .next t) :
    (s.ri < s.len ∧ storeGet s.prog s.ri = some codeOpen ∧ s.sp < s.geom.progMax ∧
        t = ((s.setStk (storePut s.stk s.sp s.ri)).setSp (s.sp + 1)).setRi (s.ri + 1)) ∨
      (s.ri < s.len ∧ storeGet s.prog s.ri = some codeClose ∧ s.sp = 0 ∧ t = raiseError .unmatchedBracket s) ∨
      (∃ o, s.ri < s.len ∧ storeGet s.prog s.ri = some codeClose ∧ s.sp ≠ 0 ∧
        storeGet s.stk (s.sp - 1) = some o ∧
        t = (pairBrackets (s.setSp (s.sp - 1)) o s.ri).setRi (s.ri + 1)) ∨
      (∃ c, s.ri < s.len ∧ storeGet s.prog s.ri = some c ∧ c ≠ codeOpen ∧ c ≠ codeClose ∧
        t = s.setRi (s.ri + 1)) := by
  obtain ⟨c, hc, h⟩ := onOk_next.1 h
  obtain ⟨hlt, hc⟩ := fetch_ok.1 hc
  split at h
  · next ho =>
    obtain ⟨u, hu, h⟩ := onOk_next.1 h
    obtain ⟨hsp, rfl⟩ := pushStack_ok.1 hu
    exact .inl ⟨hlt, by rw [hc, ho], hsp, (Host.Outcome.next.inj h).symm⟩
  · next ho =>
    split at h
    · next hcl =>
      unfold scanClose at h
      split at h
      · next hz => exact .inr (.inl ⟨hlt, by rw [hc, hcl], hz, (Host.Outcome.next.inj h).symm⟩)
      · next hz =>
        obtain ⟨o, hk, h⟩ := onOk_next.1 h
        exact .inr (.inr (.inl
          ⟨o, hlt, by rw [hc, hcl], hz, readStack_ok.1 hk, (Host.Outcome.next.inj h).symm⟩))
    · next hcl => exact .inr (.inr (.inr ⟨c, hlt, hc, ho, hcl, (Host.Outcome.next.inj h).symm⟩))

/-- A step in phase `Running`: the termination transition at `pc = LEN`, else the instruction fetched at `pc`. -/
theorem runningStep_next (h : runningStep s = .next t) :
    (s.pc = s.len ∧ t = terminate s) ∨
      (∃ c, s.pc < s.len ∧ storeGet s.prog s.pc = some c ∧ exec (decode c) s = .next t) := by
  unfold runningStep at h
  split at h
  · next hp => exact .inl ⟨hp, (Host.Outcome.next.inj h).symm⟩
  · obtain ⟨c, hc, h⟩ := onOk_next.1 h
    obtain ⟨hlt, hc⟩ := fetch_ok.1 hc
    exact .inr ⟨c, hlt, hc, h⟩

/-- An instruction that answers a next state: by instruction, what the meanings' own lemmas take further. -/
theorem exec_next {i : Instr} (h : exec i s = .next t) :
    (i = .right ∧ t = finishStep (s.setDp (s.dp + 1))) ∨
      (i = .left ∧ t = finishStep (s.setDp (s.dp - 1))) ∨
      (∃ d, ((i = .inc ∧ d = 1) ∨ (i = .dec ∧ d = -1)) ∧ addToCell d s = .next t) ∨
      (i = .output ∧ execOutput s = .next t) ∨
      (i = .input ∧ execInput s = .next t) ∨
      (i = .openLoop ∧ branch cellIsZero s = .next t) ∨
      (i = .closeLoop ∧ branch (fun v => !cellIsZero v) s = .next t) ∨
      (∃ c, i = .nop c ∧ t = finishStep s) := by
  cases i with
  | right => exact .inl ⟨rfl, (Host.Outcome.next.inj h).symm⟩
  | left => exact .inr (.inl ⟨rfl, (Host.Outcome.next.inj h).symm⟩)
  | inc => exact .inr (.inr (.inl ⟨_, .inl ⟨rfl, rfl⟩, h⟩))
  | dec => exact .inr (.inr (.inl ⟨_, .inr ⟨rfl, rfl⟩, h⟩))
  | output => exact .inr (.inr (.inr (.inl ⟨rfl, h⟩)))
  | input => exact .inr (.inr (.inr (.inr (.inl ⟨rfl, h⟩))))
  | openLoop => exact .inr (.inr (.inr (.inr (.inr (.inl ⟨rfl, h⟩)))))
  | closeLoop => exact .inr (.inr (.inr (.inr (.inr (.inr (.inl ⟨rfl, h⟩))))))
  | nop c => exact .inr (.inr (.inr (.inr (.inr (.inr (.inr ⟨c, rfl, (Host.Outcome.next.inj h).symm⟩))))))

/-- The engine's own step, by phase: nothing, a resolver step, the termination transition or an instruction. -/
theorem engineStep_next (h : engineStep s = .next t) :
    (s.status = .ready ∧ t = s) ∨
      (s.status = .resolving ∧ s.ri = s.len ∧ t = closeStep s) ∨
      (s.status = .resolving ∧ s.ri ≠ s.len ∧ scanStep s = .next t) ∨
      (s.status = .running ∧ s.pc = s.len ∧ t = terminate s) ∨
      (s.status = .running ∧
        ∃ c, s.pc < s.len ∧ storeGet s.prog s.pc = some c ∧ exec (decode c) s = .next t) ∨
      (∃ r, s.status = .halted r ∧ t = s) := by
  unfold engineStep at h
  split at h
  · next hs => exact .inl ⟨hs, (Host.Outcome.next.inj h).symm⟩
  · next hs =>
    unfold resolverStep at h
    split at h
    · next hr => exact .inr (.inl ⟨hs, hr, (Host.Outcome.next.inj h).symm⟩)
    · next hr => exact .inr (.inr (.inl ⟨hs, hr, h⟩))
  · next hs =>
    rcases runningStep_next h with hr | hr
    · exact .inr (.inr (.inr (.inl ⟨hs, hr⟩)))
    · exact .inr (.inr (.inr (.inr (.inl ⟨hs, hr⟩))))
  · next r hs => exact .inr (.inr (.inr (.inr (.inr ⟨r, hs, (Host.Outcome.next.inj h).symm⟩))))

/-- The step of the machine: the engine's own, or what the host's next move does. -/
theorem systemStep_next (h : systemStep s = .next t) :
    (s.port.moves = [] ∧ engineStep s = .next t) ∨
      (∃ rest, s.port.moves = .idle :: rest ∧ engineStep (dropMove s) = .next t) ∨
      (∃ text rest, s.port.moves = .load text :: rest ∧ s.status = .ready ∧
        t = (dropMove s).setProgram (textAt 0 text) text.length) ∨
      (∃ rest, s.port.moves = .start :: rest ∧
        ((s.status = .ready ∧ launchable s ∧ t = launch (dropMove s)) ∨
          (s.status ≠ .ready ∧ t = dropMove s))) ∨
      (∃ rest, s.port.moves = .reset :: rest ∧ t = resetEngine (dropMove s)) := by
  unfold systemStep at h
  split at h
  · next hm => exact .inl ⟨hm, h⟩
  · next rest hm => exact .inr (.inl ⟨rest, hm, h⟩)
  · next text rest hm =>
    refine .inr (.inr (.inl ⟨text, rest, hm, ?_⟩))
    unfold hostLoad at h
    split at h <;> simp_all
  · next rest hm =>
    refine .inr (.inr (.inr (.inl ⟨rest, hm, ?_⟩)))
    unfold hostStart at h
    split at h
    · next hs =>
      split at h
      · next hl => exact .inl ⟨by simpa using hs, by simpa [launchable] using hl, (Host.Outcome.next.inj h).symm⟩
      · simp at h
    all_goals
      next hs => exact .inr ⟨by simp at hs; simp [hs], (Host.Outcome.next.inj h).symm⟩
  · next rest hm => exact .inr (.inr (.inr (.inr ⟨rest, hm, (Host.Outcome.next.inj h).symm⟩)))

end Sys2Proof.Machine
end

