-- ==== Sys2Proof/Laws/PerInstr.lean ====
section
/-! SUPPORT. Statements about every instruction as syntax, one lemma per constructor. -/

/-! Family `OneCharacter` (30_encoding.md R60): every instruction is exactly one character. -/

namespace Sys2Proof.Laws.OneCharacter

/-- The encoding of `i` is one byte long. -/
def Statement (i : Sys2Proof.Instr) : Prop := (Sys2Proof.encodeBytes i).length = 1

theorem right : Statement .right := rfl
theorem left : Statement .left := rfl
theorem inc : Statement .inc := rfl
theorem dec : Statement .dec := rfl
theorem output : Statement .output := rfl
theorem input : Statement .input := rfl
theorem openLoop : Statement .openLoop := rfl
theorem closeLoop : Statement .closeLoop := rfl
theorem nop (c : Sys2Proof.Byte) : Statement (.nop c) := rfl

end Sys2Proof.Laws.OneCharacter

/-! Family `BracketClass` (30_encoding.md R66): the resolver, which compares characters with `'['` and `']'`, sees a
bracket exactly where the decoder sees the instruction. -/

namespace Sys2Proof.Laws.BracketClass

/-- A well-formed `i` is encoded as `[` iff it is that instruction, and so for `]`. -/
def Statement (i : Sys2Proof.Instr) : Prop :=
  i.wellFormed = true →
    (Sys2Proof.encode i = Sys2Proof.codeOpen ↔ i = .openLoop) ∧
      (Sys2Proof.encode i = Sys2Proof.codeClose ↔ i = .closeLoop)

theorem right : Statement .right := by unfold Statement; decide
theorem left : Statement .left := by unfold Statement; decide
theorem inc : Statement .inc := by unfold Statement; decide
theorem dec : Statement .dec := by unfold Statement; decide
theorem output : Statement .output := by unfold Statement; decide
theorem input : Statement .input := by unfold Statement; decide
theorem openLoop : Statement .openLoop := by unfold Statement; decide
theorem closeLoop : Statement .closeLoop := by unfold Statement; decide

theorem nop (c : Sys2Proof.Byte) : Statement (.nop c) := by
  intro h
  have ho : c ≠ Sys2Proof.codeOpen := by rintro rfl; exact absurd h (by decide)
  have hc : c ≠ Sys2Proof.codeClose := by rintro rfl; exact absurd h (by decide)
  simp [Sys2Proof.encode, ho, hc]

end Sys2Proof.Laws.BracketClass
end

