-- ==== Sys2Proof/Tests/Slice0.lean ====
section
/-! SUPPORT. Tests of one step each, and a witness for the hypotheses of each statement. Expected results come from the
spec: 95_test_vectors.md (V1 to V50, J1 to J16) and the encodings of 30_encoding.md R62. -/

namespace Sys2Proof.Tests

open Sys2Proof.Machine

/-! ### Well-formedness, decoding, encoding -/

theorem test_wellFormed_refuses_instruction_code : (Instr.nop 0x3E).wellFormed = false := by decide
theorem test_wellFormed_accepts_comment : (Instr.nop 0x61).wellFormed = true := by decide

/-- Every code of 30_encoding.md R62, bit by bit. -/
theorem test_decode_codes :
    decode 0b00111110#8 = .right ∧ decode 0b00111100#8 = .left ∧ decode 0b00101011#8 = .inc ∧
      decode 0b00101101#8 = .dec ∧ decode 0b00101110#8 = .output ∧ decode 0b00101100#8 = .input ∧
      decode 0b01011011#8 = .openLoop ∧ decode 0b01011101#8 = .closeLoop := by decide
/-- V35 to V43: near misses of the decoder, NUL and 0xFF. -/
theorem test_decode_nop :
    ∀ c ∈ [0x20#8, 0x0A#8, 0x61#8, 0x00#8, 0xFF#8, 0x2F#8, 0x3D#8, 0x5C#8, 0x2A#8], decode c = .nop c := by decide
theorem test_decodeBytes_empty : decodeBytes [] = .error .noCharacter := by rfl
theorem test_decodeBytes_rest : decodeBytes [0x2B, 0x5B] = .ok (.inc, [0x5B]) := by rfl
theorem test_table_words :
    decodeTableWord 8 0x3E = some .right ∧ decodeTableWord 8 0x2E = some .output ∧
      decodeTableWord 8 0x00 = some (.nop 0) := by decide

/-! ### Small states -/

/-- An engine of `size` cells in phase `Running` on `text` with the table `jt`. -/
def at_ (size : Nat) (text : List Byte) (jt : PositionMemory) (tape : Memory) (dp : Int) (pc : Nat) : State :=
  { State.reset with
    geom := { tapeSize := size, progMax := 8 }
    prog := textAt 0 text
    len := text.length
    tape := tape
    dp := dp
    pc := pc
    status := .running
    jt := jt }

/-- The same with answers of the two collaborators listed. -/
def answering (ins : List (Option InAnswer)) (outs : List OutAnswer) (s : State) : State :=
  { s with port :=
    { s.port with
      inputs := { s.port.inputs with listed := ins }
      outputs := { s.port.outputs with listed := outs } } }

/-- The same with an input collaborator that says one thing for ever. -/
def always (a : Option InAnswer) (s : State) : State :=
  { s with port := { s.port with inputs := { listed := [], rest := .always a, draws := 0 } } }

/-- The same in another phase. -/
def inPhase (st : Status) (s : State) : State := { s with status := st }

/-- The same with host moves to come. -/
def hosted (ms : List HostMove) (s : State) : State := { s with port := { s.port with moves := ms } }

/-- The same in the pre-pass, `ri` characters scanned and `sp` positions on the stack `stk`. -/
def scanning (ri sp : Nat) (stk : PositionMemory) (s : State) : State :=
  { s with status := .resolving, ri := ri, sp := sp, stk := stk }

/-- The next state of an outcome. -/
def nextOf : StepOutcome → Option State
  | .next s => some s
  | .fault _ => none
  | .refused _ => none

/-- `+[-]` with its table `1<->3` (95_test_vectors.md section 3.4). -/
def loopText : List Byte := [0x2B, 0x5B, 0x2D, 0x5D]
def loopTable : PositionMemory := [(1, 3), (3, 1)]

/-! ### One step of each instruction -/

/-- V2 and V3. -/
theorem test_right : (nextOf (exec .right (at_ 30000 [0x3E] [] [] 29998 0))).map (fun t => (t.dp, t.pc, t.status)) =
    some (29999, 1, .running) := by decide
theorem test_right_at_edge :
    (nextOf (exec .right (at_ 30000 [0x3E] [] [] 29999 0))).map (fun t => (t.dp, t.pc, t.status)) =
      some (30000, 1, .halted (.error .pointerOutOfBounds)) := by decide
/-- V6 and V5. -/
theorem test_left : (nextOf (exec .left (at_ 30000 [0x3C] [] [] 29999 0))).map (fun t => (t.dp, t.pc, t.status)) =
    some (29998, 1, .running) := by decide
theorem test_left_at_edge :
    (nextOf (exec .left (at_ 1 [0x3C] [] [] 0 0))).map (fun t => (t.dp, t.pc, t.status)) =
      some (-1, 1, .halted (.error .pointerOutOfBounds)) := by decide
/-- V13: the cell becomes 0 and its entry goes. -/
theorem test_inc_wraps : (nextOf (exec .inc (at_ 4 [0x2B] [] [(0, 7), (2, 255)] 2 0))).map State.tape =
    some [(0, 7)] := by decide
/-- V11. -/
theorem test_inc : (nextOf (exec .inc (at_ 4 [0x2B] [] [(2, 127)] 2 0))).map State.tape = some [(2, 128)] := by decide
/-- V15. -/
theorem test_dec_wraps : (nextOf (exec .dec (at_ 4 [0x2D] [] [(3, 1)] 1 0))).map State.tape =
    some [(1, 255), (3, 1)] := by decide
/-- V16. -/
theorem test_dec : (nextOf (exec .dec (at_ 4 [0x2D] [] [(1, 128)] 1 0))).map State.tape = some [(1, 127)] := by decide
/-- V18. -/
theorem test_output_accepted :
    (nextOf (exec .output (answering [] [.accepted] (at_ 4 [0x2E] [] [(0, 0x41)] 0 0)))).map
      (fun t => (t.port.sent, t.pc, t.status)) = some ([0x41], 1, .running) := by decide
/-- V21. -/
theorem test_output_failed :
    (nextOf (exec .output (answering [] [.failed] (at_ 4 [0x2E] [] [(0, 0x41)] 0 0)))).map
      (fun t => (t.port.sent, t.pc, t.status)) = some ([], 0, .halted (.error .outputFailed)) := by decide
/-- V22. -/
theorem test_input_byte :
    (nextOf (exec .input (answering [some (.byte 0x41)] [] (at_ 4 [0x2C] [] [(0, 7)] 0 0)))).map
      (fun t => (t.tape, t.pc)) = some ([(0, 0x41)], 1) := by decide
/-- V25: end of input leaves the cell. -/
theorem test_input_end :
    (nextOf (exec .input (answering [some .endOfInput] [] (at_ 4 [0x2C] [] [(0, 7)] 0 0)))).map
      (fun t => (t.tape, t.pc, t.status)) = some ([(0, 7)], 1, .running) := by decide
/-- V27. -/
theorem test_input_failed :
    (nextOf (exec .input (answering [some .failed] [] (at_ 4 [0x2C] [] [(0, 7)] 0 0)))).map
      (fun t => (t.tape, t.pc, t.status)) = some ([(0, 7)], 0, .halted (.error .inputFailed)) := by decide
/-- V29 and V30. -/
theorem test_open :
    (nextOf (exec .openLoop (at_ 4 loopText loopTable [] 0 1))).map State.pc = some 3 ∧
      (nextOf (exec .openLoop (at_ 4 loopText loopTable [(0, 1)] 0 1))).map State.pc = some 2 := by decide
/-- V32 and V34. -/
theorem test_close :
    (nextOf (exec .closeLoop (at_ 4 loopText loopTable [] 0 3))).map State.pc = some 4 ∧
      (nextOf (exec .closeLoop (at_ 4 loopText loopTable [(0, 128)] 0 3))).map State.pc = some 1 := by decide
/-- V38. -/
theorem test_nop : (nextOf (exec (.nop 0) (at_ 4 [0] [] [] 0 0))).map (fun t => (t.pc, t.status)) =
    some (1, .running) := by decide

/-! ### One step of the machine -/

/-- V44. -/
theorem test_step_terminates : (nextOf (step (at_ 4 [0x2B] [] [] 0 1))).map State.status = some (.halted .ok) := by
  decide
/-- V46: leaving the tape at the last character is never `Ok`. -/
theorem test_step_error_beats_ok : (nextOf (step (at_ 1 [0x3E] [] [] 0 0))).map (fun t => (t.pc, t.status)) =
    some (1, .halted (.error .pointerOutOfBounds)) := by decide
/-- V28. -/
theorem test_step_blocked :
    nextOf (step (always none (at_ 4 [0x2C] [] [] 0 0))) = some (always none (at_ 4 [0x2C] [] [] 0 0)) := by decide
/-- P14, at the second `,` of `,[.,]` with the input used up: end of input every time, the loop goes on. -/
theorem test_step_input_ended :
    (nextOf (step (always (some .endOfInput) (at_ 4 [0x2C, 0x5B, 0x2E, 0x2C, 0x5D] [] [(0, 0x69)] 0 3)))).map
      (fun t => (t.tape, t.pc, t.status, t.port.inputs.rest)) =
        some ([(0, 0x69)], 4, .running, .always (some .endOfInput)) := by decide
/-- V49. -/
theorem test_step_start_ignored :
    nextOf (step (hosted [.start] (at_ 4 [0x2C] [] [] 0 0))) = some (at_ 4 [0x2C] [] [] 0 0) := by decide
/-- V50. -/
theorem test_step_reset :
    (nextOf (step (hosted [.reset] (at_ 4 [0x2B] [] [(1, 2)] 1 1)))).map
      (fun t => (t.tape, t.dp, t.pc, t.status)) = some ([], 0, 0, .ready) := by decide
/-- J12: `][` halts at the first scan step. -/
theorem test_scan_unmatched_close :
    (nextOf (step (scanning 0 0 [] (at_ 4 [0x5D, 0x5B] [] [] 0 0)))).map State.status =
      some (.halted (.error .unmatchedBracket)) := by decide
/-- J10: `[` halts at the closing step. -/
theorem test_close_step_unmatched_open :
    (nextOf (step (scanning 1 1 [(0, 0)] (at_ 4 [0x5B] [] [] 0 0)))).map
      State.status = some (.halted (.error .unmatchedBracket)) := by decide
/-- J3: the pop on `[]` records the pair both ways. -/
theorem test_scan_pairs :
    (nextOf (step (scanning 1 1 [(0, 0)] (at_ 4 [0x5B, 0x5D] [] [] 0 0)))).map
      (fun t => (t.jt, t.sp, t.ri)) = some ([(0, 1), (1, 0)], 0, 2) := by decide

/-- A word placed by `withFetchWord` is the one the next step runs. -/
theorem test_withFetchWord :
    (nextOf (step (State.reset.withFetchWord 8 0x3E))).map State.dp = some 1 ∧
      (nextOf (step (State.reset.withFetchWord 8 0x2B))).map State.tape = some [(0, 1)] ∧
      (nextOf (step (State.reset.withFetchWord 8 0x2E))).map (fun t => t.port.sent) = some [0] ∧
      (nextOf (step (State.reset.withFetchWord 8 0x2C))).map State.pc = some 1 ∧
      (nextOf (step (State.reset.withFetchWord 8 0x5B))).map State.pc = some 1 ∧
      (nextOf (step (State.reset.withFetchWord 8 0x5D))).map State.pc = some 2 ∧
      (nextOf (step (State.reset.withFetchWord 8 0x00))).map State.pc = some 1 := by decide

/-- 00_scope.md R5: `W_DP` is 16 for `TAPE_SIZE` = 30000. -/
theorem test_width : Config.widthDp { tapeSize := 30000, progMax := 1 } = 16 := by decide

/-! ### Witnesses: for each statement, a state and operands that meet its hypotheses, clause by clause -/

theorem witness_DecodeEncodeAgree :
    (Instr.nop 0x61).wellFormed = true ∧ (∀ i ∈ [Instr.inc, .nop 0x61], i.wellFormed = true) ∧
      State.reset.status = .ready ∧
      (hosted [.load ([Instr.inc, .nop 0x61].map encode)] State.reset).port.moves =
        [.load ([Instr.inc, .nop 0x61].map encode)] ∧
      [Instr.inc, .nop 0x61][1]? = some (.nop 0x61) := by decide

theorem witness_EveryCharacterDecodes : Instr.openLoop.wellFormed = true ∧ encode .openLoop = 0x5B := by decide

theorem witness_RightMovesUpOrHaltsAtTheEdge :
    ((at_ 3 [] [] [] 2 0).onTape 2 ∧ (at_ 3 [] [] [] 2 0).dp + 1 = (at_ 3 [] [] [] 2 0).geom.tapeSize) ∧
      ((at_ 3 [] [] [] 1 0).onTape 1 ∧ (at_ 3 [] [] [] 1 0).dp + 1 ≠ (at_ 3 [] [] [] 1 0).geom.tapeSize) := by decide

theorem witness_LeftMovesDownOrHaltsAtTheEdge :
    (at_ 3 [] [] [] 0 0).onTape 0 ∧ ((at_ 3 [] [] [] 2 0).onTape 2 ∧ (at_ 3 [] [] [] 2 0).dp ≠ 0) := by decide

/-- The cell at each end of its range, for `+`, `-`, `.`, `[`, `]` and the pairs' laws. -/
theorem witness_readable_cell :
    memRead (at_ 3 [] [] [] 2 0) 2 = .ok 0 ∧ memRead (at_ 3 [] [] [(2, 255)] 2 0) 2 = .ok 255 := ⟨rfl, rfl⟩

theorem witness_OutputEmitsTheCellOrHalts :
    outAnswer (answering [] [.accepted] (at_ 3 [] [] [] 2 0)) = .accepted ∧
      outAnswer (answering [] [.failed] (at_ 3 [] [] [] 2 0)) = .failed := by decide

theorem witness_InputStoresAByteOrSkipsOrHalts :
    (at_ 3 [] [] [] 2 0).onTape 2 ∧
      ∀ a ∈ [InAnswer.byte 255, .endOfInput, .failed],
        inAnswer (answering [some a] [] (at_ 3 [] [] [] 2 0)) = some a ∧
          inAnswer (always (some a) (at_ 3 [] [] [] 2 0)) = some a := by decide

theorem witness_OpenJumpsOnZero_CloseJumpsOnNonZero :
    storeGet (at_ 3 loopText loopTable [] 0 1).jt 1 = some 3 ∧
      storeGet (at_ 3 loopText loopTable [(0, 128)] 0 3).jt 3 = some 1 := by decide

theorem witness_NopOnlyAdvances :
    0x3D#8 ∉ [0x2B#8, 0x2C#8, 0x2D#8, 0x2E#8, 0x3C#8, 0x3E#8, 0x5B#8, 0x5D#8] ∧
      (at_ 3 [] [] [] 2 0).onTape 2 := by decide

theorem witness_OffTapeAccessStops :
    ¬ (at_ 3 [] [] [] (-1) 0).onTape (-1) ∧ ¬ (at_ 3 [] [] [] 3 0).onTape 3 ∧
      inAnswer (answering [some (.byte 7)] [] (at_ 3 [] [] [] 3 0)) = some (.byte 7) := by decide

/-- Every instruction answers a next state somewhere: the hypothesis of each frame. -/
theorem witness_frames :
    (∀ i ∈ [Instr.right, .left, .inc, .dec, .nop 0x61],
        (nextOf (exec i (at_ 3 loopText loopTable [] 1 1))).isSome) ∧
      (nextOf (exec .openLoop (at_ 3 loopText loopTable [] 1 1))).isSome ∧
      (nextOf (exec .closeLoop (at_ 3 loopText loopTable [] 1 3))).isSome ∧
      (∀ a ∈ [OutAnswer.accepted, .failed],
        (nextOf (exec .output (answering [] [a] (at_ 3 [] [] [] 1 0)))).isSome) ∧
      (∀ a ∈ [some (InAnswer.byte 7), some .endOfInput, some .failed, none],
        (nextOf (exec .input (answering [a] [] (at_ 3 [] [] [] 1 0)))).isSome) := by decide

theorem witness_StepRunsTheDecodedInstruction :
    (at_ 3 loopText [] [] 0 3).status = .running ∧ (at_ 3 loopText [] [] 0 3).pc < (at_ 3 loopText [] [] 0 3).len ∧
      fetch (at_ 3 loopText [] [] 0 3) 3 = .ok 0x5D ∧ decodeBytes [0x5D] = .ok (.closeLoop, []) ∧
      (at_ 3 loopText [] [] 0 3).port.moves = [] ∧
      (hosted [.idle] (at_ 3 loopText [] [] 0 3)).port.moves = .idle :: [] :=
  ⟨rfl, by decide, rfl, rfl, rfl, rfl⟩

theorem witness_TerminationAtTheEnd :
    (at_ 3 loopText [] [] 0 4).status = .running ∧ (at_ 3 loopText [] [] 0 4).pc = (at_ 3 loopText [] [] 0 4).len ∧
      (at_ 3 loopText [] [] 0 4).port.moves = [] := by decide

theorem witness_ReadyAndHaltedStay :
    State.reset.status = .ready ∧ State.reset.port.moves = [] ∧
      (inPhase (.halted .ok) State.reset).status = .halted .ok ∧
      (inPhase (.halted .ok) State.reset).port.moves = [] := by decide

theorem witness_UnansweredInputIsStuck :
    (at_ 3 [0x2C] [] [] 0 0).status = .running ∧ (at_ 3 [0x2C] [] [] 0 0).pc < (at_ 3 [0x2C] [] [] 0 0).len ∧
      fetch (at_ 3 [0x2C] [] [] 0 0) 0 = .ok codeInput ∧ (at_ 3 [0x2C] [] [] 0 0).port.moves = [] ∧
      (∀ k, k < 3 → (answering [none, none, none] [] (at_ 3 [0x2C] [] [] 0 0)).comingInput k = none) ∧
      (always none (at_ 3 [0x2C] [] [] 0 0)).port.inputs.listed = [] ∧
      (always none (at_ 3 [0x2C] [] [] 0 0)).port.inputs.rest = .always none :=
  ⟨rfl, by decide, rfl, rfl, by decide, rfl, rfl⟩

/-- The loop of `+[]` at its `]`, and `[,]` at its own under end of input for ever. -/
theorem witness_EndlessLoopsAreKept :
    (memRead (at_ 3 [0x2B, 0x5B, 0x5D] [(1, 2), (2, 1)] [(0, 1)] 0 2) 0 = .ok 1 ∧
      (at_ 3 [0x2B, 0x5B, 0x5D] [(1, 2), (2, 1)] [(0, 1)] 0 2).openAt 1 ∧
      (at_ 3 [0x2B, 0x5B, 0x5D] [(1, 2), (2, 1)] [(0, 1)] 0 2).closeAt 2 ∧
      storeGet [(1, 2), (2, 1)] 2 = some 1) ∧
    (memRead (at_ 3 [0x5B, 0x2C, 0x5D] [(0, 2), (2, 0)] [(0, 255)] 0 2) 0 = .ok 255 ∧
      (at_ 3 [0x5B, 0x2C, 0x5D] [(0, 2), (2, 0)] [(0, 255)] 0 2).openAt 0 ∧
      (at_ 3 [0x5B, 0x2C, 0x5D] [(0, 2), (2, 0)] [(0, 255)] 0 2).closeAt 2 ∧
      storeGet [(0, 2), (2, 0)] 2 = some 0 ∧
      fetch (at_ 3 [0x5B, 0x2C, 0x5D] [(0, 2), (2, 0)] [(0, 255)] 0 2) 1 = .ok codeInput ∧
      (always (some .endOfInput) (at_ 3 [] [] [] 0 0)).port.inputs.rest = .always (some .endOfInput)) :=
  ⟨⟨rfl, by decide, by decide, rfl⟩, rfl, by decide, by decide, rfl, rfl, rfl⟩

theorem witness_ListHostAnswers :
    ({ State.reset with port := Port.listHost loopText [0x48, 0x69] }).port = Port.listHost loopText [0x48, 0x69] ∧
      [0x48#8, 0x69#8][1]? = some 0x69#8 ∧ [0x48#8, 0x69#8].length ≤ 2 := ⟨rfl, rfl, by decide⟩

/-- A next state and a fault; with no move of the host nothing is refused. -/
theorem witness_IdleHostLeavesTheStepToTheEngine :
    (hosted [.idle, .reset] (at_ 3 [0x2B] [] [] 0 0)).port.moves = .idle :: [.reset] ∧
      (nextOf (step (hosted [] (at_ 3 [0x2B] [] [] 0 0)))).isSome ∧
      step (hosted [] (at_ 3 [0x2B] [] [] 3 0)) = .fault (.tapeOutOfRange 3) := ⟨rfl, by decide, rfl⟩

theorem witness_ResetFromAnyPhase :
    ∀ st ∈ [Status.ready, .resolving, .running, .halted .ok],
      (hosted [.reset] (inPhase st (at_ 3 [0x2C] [] [(0, 1)] 0 0))).port.moves = .reset :: [] ∧
        (at_ 3 [0x2C] [] [(0, 1)] 0 0).onTape 2 := by decide

/-- The launch premises at both ends of their range (`PROG_MAX` is 8 here), and just outside it. -/
theorem witness_StartIsHonouredOnlyInReady :
    (∀ n ∈ [1, 8], launchable (at_ 3 (List.replicate n 0x2B) [] [] 0 0)) ∧
      (at_ 3 [] [] [] 0 0).len = 0 ∧ (at_ 3 [] [] [] 0 0).geom.progMax < (at_ 3 (List.replicate 9 0x2B) [] [] 0 0).len ∧
      (hosted [.start] (inPhase .ready (at_ 3 [] [] [] 0 0))).port.moves = .start :: [] ∧
      (inPhase .ready (at_ 3 [] [] [] 0 0)).status = .ready ∧ (at_ 3 [] [] [] 0 0).status ≠ .ready := by decide

theorem witness_LoadWritesTheTextInReady :
    (hosted [.load loopText] State.reset).port.moves = .load loopText :: [] ∧ State.reset.status = .ready ∧
      loopText[3]? = some 0x5D ∧ (at_ 3 [] [] [] 0 0).status ≠ .ready := by decide

theorem witness_OnlyTheTableOfTransitions :
    (nextOf (step (at_ 3 loopText [] [] 0 4))).map State.status = some (.halted .ok) ∧
      (at_ 3 loopText [] [] 0 4).status ≠ .halted .ok := by decide

theorem witness_ScanStepPairsBrackets :
    (scanning 0 0 [] (at_ 3 [0x5B, 0x5D] [] [] 0 0)).status = .resolving ∧
      fetch (at_ 3 [0x5B, 0x5D] [] [] 0 0) 0 = .ok 0x5B ∧ fetch (at_ 3 [0x5B, 0x5D] [] [] 0 0) 1 = .ok 0x5D ∧
      fetch (at_ 3 [0x2B] [] [] 0 0) 0 = .ok 0x2B ∧
      (scanning 0 7 [] (at_ 3 [0x5B] [] [] 0 0)).sp < (at_ 3 [0x5B] [] [] 0 0).geom.progMax ∧
      (at_ 3 [0x5B] [] [] 0 0).geom.progMax ≤ (scanning 0 8 [] (at_ 3 [0x5B] [] [] 0 0)).sp ∧
      (scanning 0 0 [] (at_ 3 [0x5D] [] [] 0 0)).sp = 0 ∧
      storeGet (scanning 1 1 [(0, 0)] (at_ 3 [0x5B, 0x5D] [] [] 0 0)).stk 0 = some 0 :=
  ⟨rfl, rfl, rfl, rfl, by decide, by decide, rfl, rfl⟩

theorem witness_ClosingStepGivesTheVerdict :
    (scanning 2 0 [] (at_ 3 [0x5B, 0x5D] [] [] 0 0)).ri = (at_ 3 [0x5B, 0x5D] [] [] 0 0).len ∧
      (scanning 1 1 [(0, 0)] (at_ 3 [0x5B] [] [] 0 0)).ri = (at_ 3 [0x5B] [] [] 0 0).len ∧
      (scanning 1 1 [(0, 0)] (at_ 3 [0x5B] [] [] 0 0)).sp ≠ 0 := by decide

/-! ### Witnesses of the invariant -/

/-- The clauses of `State.ScanRight` on the counts, as one decidable proposition. -/
abbrev scanCounts (s : State) : Prop :=
  s.ri ≤ s.len ∧ (s.sp : Int) = balance s.prog s.ri ∧ s.sp ≤ s.ri ∧ ∀ n, n ≤ s.ri → 0 ≤ balance s.prog n

/-- Its clauses on the stack. -/
abbrev scanStack (s : State) : Prop :=
  (∀ k, k < s.sp → ∃ o, o < s.len ∧ storeGet s.stk k = some o ∧ s.pending k o) ∧
    ∀ k, k < s.sp → ∀ j, j < k → ∃ o, o < s.len ∧ ∃ o', o' < o ∧
      storeGet s.stk k = some o ∧ storeGet s.stk j = some o'

/-- Its clauses on the table. -/
abbrev scanTable (s : State) : Prop :=
  (∀ p, p < s.ri → s.bracketAt p →
    (∃ q, q < s.ri ∧ storeGet s.jt p = some q) ∨ (∃ k, k < s.sp ∧ storeGet s.stk k = some p)) ∧
    ∀ e ∈ s.jt, e.1 < s.ri ∧ e.2 < s.ri ∧ s.bracketAt e.1 ∧ s.entryRight e.1 e.2

theorem scan_of {s : State} (h₁ : scanCounts s) (h₂ : scanStack s) (h₃ : scanTable s) : s.ScanRight :=
  ⟨h₁.1, h₁.2.1, h₁.2.2.1, h₁.2.2.2, h₂.1, h₂.2, h₃.1, h₃.2⟩

/-- The clauses of `State.TableRight`, as one decidable proposition. -/
abbrev tableClauses (s : State) : Prop :=
  (∀ p, p < s.len → s.bracketAt p → ∃ q, q < s.len ∧ storeGet s.jt p = some q) ∧
    ∀ e ∈ s.jt, s.bracketAt e.1 ∧ s.entryRight e.1 e.2

/-- The clauses of `State.Inv` on sizes, memories and the program. -/
abbrev invStorage (s : State) : Prop :=
  (1 ≤ s.geom.tapeSize ∧ 1 ≤ s.geom.progMax) ∧
    (storeSorted s.prog ∧ Memory.wf s.tape ∧ storeSorted s.jt ∧ storeSorted s.stk) ∧
    (∀ c ∈ s.tape, c.1 < s.geom.tapeSize) ∧ (∀ p, p < s.len → (storeGet s.prog p).isSome) ∧
    (s.status ≠ .ready → launchable s)

/-- Its clauses on the registers. -/
abbrev invRegisters (s : State) : Prop :=
  s.pc ≤ s.len ∧
    (s.status.untouched → s.tape = [] ∧ s.dp = 0 ∧ s.pc = 0 ∧ s.port.sent = [] ∧ s.port.answered = []) ∧
    (s.status ≠ .halted (.error .pointerOutOfBounds) → s.onTape s.dp) ∧
    (s.status = .halted (.error .pointerOutOfBounds) → s.dp = -1 ∨ s.dp = s.geom.tapeSize) ∧
    (s.status = .ready → s.jt = []) ∧ (s.status = .halted .ok → s.pc = s.len)

/-- A state meets the invariant if it meets each group of its clauses, which `decide` checks. -/
theorem inv_of {s : State} (h₁ : invStorage s := by decide) (h₂ : invRegisters s := by decide)
    (h₃ : s.status = .resolving → scanCounts s := by decide)
    (h₄ : s.status = .resolving → scanStack s := by decide)
    (h₅ : s.status = .resolving → scanTable s := by decide)
    (h₆ : s.status.untouched = false → tableClauses s := by decide) : s.Inv := by
  obtain ⟨⟨a1, a2⟩, ⟨m1, m2, m3, m4⟩, a3, a4, a5⟩ := h₁
  obtain ⟨b1, b2, b3, b4, b5, b6⟩ := h₂
  exact ⟨a1, a2, ⟨m1, m2, m3, m4⟩, a3, a4, a5, b1, b2, b3, b4, b5, fun hs => scan_of (h₃ hs) (h₄ hs) (h₅ hs),
    fun hs => ⟨(h₆ hs).1, (h₆ hs).2⟩, b6⟩

/-- `[[]]`, resolved. -/
def nestedText : List Byte := [0x5B, 0x5B, 0x5D, 0x5D]
def nestedTable : PositionMemory := [(0, 3), (1, 2), (2, 1), (3, 0)]

theorem witness_ScanKeepsItsInvariant :
    (scanning 2 2 [(0, 0), (1, 1)] (at_ 3 nestedText [] [] 0 0)).ScanRight ∧
      (nextOf (scanStep (scanning 2 2 [(0, 0), (1, 1)] (at_ 3 nestedText [] [] 0 0)))).isSome :=
  ⟨scan_of (by decide) (by decide) (by decide), by decide⟩

theorem witness_JumpTableHoldsThePairs :
    (at_ 3 nestedText nestedTable [] 0 0).Inv ∧ (at_ 3 nestedText nestedTable [] 0 0).status = .running ∧
      (at_ 3 nestedText nestedTable [] 0 0).openAt 0 ∧ (at_ 3 nestedText nestedTable [] 0 0).openAt 1 ∧
      (at_ 3 nestedText nestedTable [] 0 0).closeAt 3 :=
  ⟨inv_of, by decide⟩

theorem witness_StartResolvesEveryProgram :
    (hosted [.start] (inPhase .ready (at_ 3 nestedText [] [] 0 0))).Inv ∧
      launchable (at_ 3 nestedText [] [] 0 0) ∧ (at_ 3 nestedText [] [] 0 0).balanced ∧
      (hosted [.start] (inPhase .ready (at_ 3 [0x5D, 0x5B] [] [] 0 0))).Inv ∧
      ¬ (at_ 3 [0x5D, 0x5B] [] [] 0 0).balanced :=
  ⟨inv_of, by decide, by unfold State.balanced; decide, inv_of,
    by unfold State.balanced; decide⟩

/-- Each way of halting, one step before it. -/
theorem witness_StateLeftByEachHalt :
    ((at_ 3 [0x2B] [] [(0, 1)] 0 1).Inv ∧
      (nextOf (step (at_ 3 [0x2B] [] [(0, 1)] 0 1))).map State.status = some (.halted .ok)) ∧
    ((scanning 0 0 [] (at_ 3 [0x5D] [] [] 0 0)).Inv ∧
      (nextOf (step (scanning 0 0 [] (at_ 3 [0x5D] [] [] 0 0)))).map State.status =
        some (.halted (.error .unmatchedBracket))) ∧
    ((at_ 3 [0x3E] [] [(0, 1)] 2 0).Inv ∧ (at_ 3 [0x3C] [] [(0, 1)] 0 0).Inv ∧
      ∀ s ∈ [at_ 3 [0x3E] [] [(0, 1)] 2 0, at_ 3 [0x3C] [] [(0, 1)] 0 0],
        (nextOf (step s)).map State.status = some (.halted (.error .pointerOutOfBounds))) ∧
    ((answering [some .failed] [] (at_ 3 [0x2C] [] [(0, 1)] 0 0)).Inv ∧
      (nextOf (step (answering [some .failed] [] (at_ 3 [0x2C] [] [(0, 1)] 0 0)))).map State.status =
        some (.halted (.error .inputFailed))) ∧
    ((answering [] [.failed] (at_ 3 [0x2E] [] [(0, 1)] 0 0)).Inv ∧
      (nextOf (step (answering [] [.failed] (at_ 3 [0x2E] [] [(0, 1)] 0 0)))).map State.status =
        some (.halted (.error .outputFailed))) :=
  ⟨⟨inv_of, by decide⟩, ⟨inv_of, by decide⟩,
    ⟨inv_of, inv_of, by decide⟩, ⟨inv_of, by decide⟩,
    ⟨inv_of, by decide⟩⟩

theorem witness_EveryStepKeepsTheInvariant :
    (at_ 3 nestedText nestedTable [] 0 0).Inv ∧
      (nextOf (step (at_ 3 nestedText nestedTable [] 0 0))).map State.pc = some 3 :=
  ⟨inv_of, by decide⟩

/-- The two refusals, each from a state that meets the invariant. -/
theorem witness_NoStepFaults :
    ((hosted [.start] (inPhase .ready (at_ 3 [] [] [] 0 0))).Inv ∧
      step (hosted [.start] (inPhase .ready (at_ 3 [] [] [] 0 0))) = .refused .launchOutsideContract) ∧
    ((hosted [.load [0x2B]] (at_ 3 nestedText nestedTable [] 0 0)).Inv ∧
      step (hosted [.load [0x2B]] (at_ 3 nestedText nestedTable [] 0 0)) = .refused .programInterfaceClosed) :=
  ⟨⟨inv_of, rfl⟩, ⟨inv_of, rfl⟩⟩

theorem witness_EveryStepKeepsTheMemoryForms :
    (at_ 3 [0x2B] [] [(0, 255)] 0 0).MemoryRight ∧ (nextOf (step (at_ 3 [0x2B] [] [(0, 255)] 0 0))).isSome :=
  ⟨⟨by decide, by decide, by decide, by decide⟩, by decide⟩

theorem witness_CanonicalTapesAreEqualWhenTheyReadEqual :
    Memory.wf [(0, 1), (2, 255)] ∧ ∀ a, tapeGet [(0, 1), (2, 255)] a = tapeGet [(0, 1), (2, 255)] a :=
  ⟨by decide, fun _ => rfl⟩

/-- The widest values: `dp` at both sentinels, `LEN` and `ri` at `PROG_MAX`. -/
theorem witness_RegistersFitTheirWidths :
    (inPhase (.halted (.error .pointerOutOfBounds)) (at_ 3 [0x3E] [] [] 3 1)).Inv ∧
      (inPhase (.halted (.error .pointerOutOfBounds)) (at_ 3 [0x3C] [] [] (-1) 1)).Inv ∧
      (scanning 8 0 [] (at_ 3 (List.replicate 8 0x2B) [] [] 0 0)).Inv ∧
      (at_ 3 (List.replicate 6 0x2B ++ [0x5B, 0x5D]) [(6, 7), (7, 6)] [] 0 8).Inv :=
  ⟨inv_of, inv_of, inv_of, inv_of⟩

/-- A step that answers a next state, for each kind of host move that is not a reset. -/
theorem witness_whole_machine_rules :
    (nextOf (step (at_ 3 [0x2B] [] [] 0 0))).map State.tape = some [(0, 1)] ∧
      (nextOf (step (at_ 3 [0x3E] [] [] 0 0))).map State.dp = some 1 ∧
      (nextOf (step (answering [] [.accepted] (at_ 3 [0x2E] [] [] 0 0)))).map (fun t => t.port.sent) = some [0] ∧
      (nextOf (step (hosted [.load [0x2B]] State.reset))).map State.len = some 1 ∧
      (nextOf (step (hosted [.start] (inPhase .ready (at_ 3 [0x2B] [] [] 0 0))))).map State.status =
        some .resolving := by decide

/-- A next state, a fault (off the tape) and a refusal, for the record's statement. -/
theorem witness_EngineDoesNotReadTheRecord :
    (nextOf (step (at_ 3 [0x2B] [] [] 0 0))).isSome ∧
      step (at_ 3 [0x2B] [] [] 3 0) = .fault (.tapeOutOfRange 3) ∧
      step (hosted [.load []] (at_ 3 [0x2B] [] [] 0 0)) = .refused .programInterfaceClosed :=
  ⟨by decide, rfl, rfl⟩

theorem witness_TapeSizeIsNotObservableInside :
    (at_ 5 [0x3E] [] [] 1 0).status = .running ∧ (at_ 5 [0x3E] [] [] 1 0).onTape 1 ∧
      (at_ 5 [0x3E] [] [] 1 0).dp < (3 : Nat) ∧
      (nextOf (step (at_ 5 [0x3E] [] [] 1 0))).map State.dp = some 2 := by decide

theorem witness_PointerMovesUndoAndAdd :
    (at_ 3 [] [] [] 1 0).onTape 1 ∧ (at_ 3 [] [] [] 1 0).dp + 1 < (at_ 3 [] [] [] 1 0).geom.tapeSize ∧
      (at_ 3 [] [] [] 0 0).dp + (2 : Nat) < (at_ 3 [] [] [] 0 0).geom.tapeSize ∧
      (at_ 3 [] [] [] 0 0).dp + (3 : Nat) = (at_ 3 [] [] [] 0 0).geom.tapeSize := by decide

theorem witness_TakenBracketsLandOnTheirPartner :
    (at_ 3 nestedText nestedTable [] 0 1).Inv ∧ (at_ 3 nestedText nestedTable [] 0 1).openAt 1 ∧
      memRead (at_ 3 nestedText nestedTable [] 0 1) 0 = .ok 0 ∧
      (at_ 3 nestedText nestedTable [(0, 9)] 0 3).Inv ∧ (at_ 3 nestedText nestedTable [(0, 9)] 0 3).closeAt 3 ∧
      memRead (at_ 3 nestedText nestedTable [(0, 9)] 0 3) 0 = .ok 9 :=
  ⟨inv_of, by decide, rfl, inv_of, by decide, rfl⟩

end Sys2Proof.Tests
end

section
/-! The widths of 00_scope.md R5 are wide enough: every number up to `PROG_MAX` fits `W_PC` bits, and the whole range of
the data pointer, both sentinels included, fits `W_DP` bits of two's complement. -/

namespace Sys2Proof.Config

/-- `ceil(log2 (n + 1))` bits hold every number up to `n`. -/
theorem lt_two_pow_ceilLog2_succ (n : Nat) : n < 2 ^ ceilLog2 (n + 1) := by
  unfold ceilLog2
  split
  · next hsmall => simpa using hsmall
  · exact Nat.lt_log2_self

theorem lt_two_pow_widthPc {g : Geometry} {n : Nat} (h : n ≤ g.progMax) : n < 2 ^ widthPc g :=
  h.trans_lt (lt_two_pow_ceilLog2_succ g.progMax)

theorem tapeSize_lt_two_pow_widthDp (g : Geometry) : g.tapeSize < 2 ^ (widthDp g - 1) :=
  lt_two_pow_ceilLog2_succ g.tapeSize

theorem dp_range_fits_widthDp {g : Geometry} {a : Int} (hlo : -1 ≤ a) (hhi : a ≤ g.tapeSize) :
    -(2 : Int) ^ (widthDp g - 1) ≤ a ∧ a < (2 : Int) ^ (widthDp g - 1) := by
  have hsize : (g.tapeSize : Int) < 2 ^ (widthDp g - 1) := by
    exact_mod_cast tapeSize_lt_two_pow_widthDp g
  omega

end Sys2Proof.Config
end

section
/-! The ranges of the registers in a state that meets the invariant (40_dispatch.md R90). -/

namespace Sys2Proof.Machine

variable {s : State}

/-- Both ends of a pair are positions of the program. -/
theorem State.matched.lt_len {o c : Nat} (h : s.matched o c) : o < s.len ∧ c < s.len := by
  obtain ⟨hopen, hclose, -⟩ := h
  exact ⟨hopen.1, hclose.1⟩

/-- Every jump goes to a position of the program. -/
theorem State.TableRight.target_lt_len (h : s.TableRight) {e : Nat × Nat} (he : e ∈ s.jt) : e.2 < s.len := by
  obtain ⟨-, -, hforward | hbackward⟩ := h.right e he
  · exact (State.matched.lt_len hforward).2
  · exact (State.matched.lt_len hbackward).1

/-- The data pointer is on the tape or at one of the two sentinels. -/
theorem State.Inv.dp_range (h : s.Inv) : -1 ≤ s.dp ∧ s.dp ≤ s.geom.tapeSize := by
  by_cases hstatus : s.status = .halted (.error .pointerOutOfBounds)
  · have hsentinel := h.dp_out hstatus
    omega
  · have htape := h.dp_in hstatus
    omega

theorem State.Inv.len_le_progMax (h : s.Inv) (hstarted : s.status ≠ .ready) : s.len ≤ s.geom.progMax :=
  (h.launched hstarted).2

/-- A started engine counts positions up to `LEN` in `W_PC` bits. -/
theorem State.Inv.fits_widthPc (h : s.Inv) (hstarted : s.status ≠ .ready) {n : Nat} (hn : n ≤ s.len) :
    n < 2 ^ Config.widthPc s.geom :=
  Config.lt_two_pow_widthPc (hn.trans (h.len_le_progMax hstarted))

/-- Settles O41: each register lies in a range of the invariant, and the widths hold those ranges. -/
theorem registersFitTheirWidths : Obligations.RegistersFitTheirWidths := by
  intro s hinv
  refine ⟨?dp, ?program, ?scan, ?table⟩
  case dp =>
    obtain ⟨hlo, hhi⟩ := hinv.dp_range
    exact Config.dp_range_fits_widthDp hlo hhi
  case program =>
    intro hstarted
    exact ⟨hinv.fits_widthPc hstarted le_rfl, hinv.fits_widthPc hstarted hinv.pc_le⟩
  case scan =>
    intro hresolving
    have hstarted : s.status ≠ .ready := by simp [hresolving]
    have hscan : s.ScanRight := hinv.scanning hresolving
    exact ⟨hinv.fits_widthPc hstarted hscan.ri_le,
      hinv.fits_widthPc hstarted (hscan.sp_le.trans hscan.ri_le)⟩
  case table =>
    intro hrunning e he
    have hstarted : s.status ≠ .ready := by simp [hrunning]
    have htable : s.TableRight := hinv.table (by simp [hrunning, Status.untouched])
    exact hinv.fits_widthPc hstarted (htable.target_lt_len he).le

end Sys2Proof.Machine
end

section
/-! What a step writes, said once (10_state.md R36): which of the state's elements each instruction can touch, and what
the engine's own step can touch besides. -/

namespace Sys2Proof.Machine

variable {s t : State}

/-! ### Reads of the tape in another state -/

theorem memRead_of_tape_eq (hgeom : t.geom = s.geom) (htape : t.tape = s.tape) (a : Int) :
    memRead t a = memRead s a := by
  unfold memRead State.onTape
  rw [hgeom, htape]

/-- A write to one cell of the tape is not seen at any other address. -/
theorem memRead_of_tape_eq_tapePut {a d : Int} {v : Byte} (hgeom : t.geom = s.geom)
    (htape : t.tape = tapePut s.tape d.toNat v) (hd : s.onTape d) (ha : a ≠ d) : memRead t a = memRead s a := by
  unfold memRead State.onTape
  rw [hgeom, htape]
  split
  · rw [tapeGet_tapePut, if_neg (by omega)]
  · rfl

/-! ### The character behind a decoded instruction -/

theorem encode_decode (c : Byte) : encode (decode c) = c := by
  have hrows : ∀ row ∈ opcodeTable, encode row.2 = row.1 := by decide
  unfold decode
  split
  · next row hfind =>
    rw [hrows row (List.mem_of_find?_eq_some hfind)]
    simpa using List.find?_some hfind
  · rfl

/-! ### The write set of an instruction -/

/-- The sizes and the program are as before. -/
structure State.SameProgram (s t : State) : Prop where
  geom : t.geom = s.geom
  prog : t.prog = s.prog
  len : t.len = s.len

/-- What the pre-pass writes is as before. -/
structure State.SameResolver (s t : State) : Prop where
  jt : t.jt = s.jt
  ri : t.ri = s.ri
  sp : t.sp = s.sp
  stk : t.stk = s.stk

/-- The write set of 10_state.md R36 for the instruction `i`, but for `pc` and `STATUS`. -/
structure WriteSet (i : Instr) (s t : State) : Prop extends s.SameProgram t, s.SameResolver t where
  moves : t.port.moves = s.port.moves
  dp : t.dp = s.dp ∨ i ∈ [.right, .left]
  tape : t.tape = s.tape ∨
    (i ∈ [.inc, .dec, .input] ∧ s.onTape s.dp ∧ ∃ v, t.tape = tapePut s.tape s.dp.toNat v)
  port : t.port = s.port ∨ i ∈ [.output, .input]

theorem WriteSet.refl (i : Instr) (s : State) : WriteSet i s s :=
  ⟨⟨rfl, rfl, rfl⟩, ⟨rfl, rfl, rfl, rfl⟩, rfl, .inl rfl, .inl rfl, .inl rfl⟩

theorem WriteSet.setPc {i : Instr} (h : WriteSet i s t) (p : Nat) : WriteSet i s (t.setPc p) :=
  { h with }

theorem WriteSet.raiseError {i : Instr} (h : WriteSet i s t) (kind : ErrorKind) :
    WriteSet i s (raiseError kind t) :=
  { h with }

/-- The end of a step writes `pc` and `STATUS` alone. -/
theorem WriteSet.finishStep {i : Instr} (h : WriteSet i s t) : WriteSet i s (finishStep t) := by
  by_cases hon : t.onTape t.dp
  · rw [finishStep_of_onTape hon]
    exact h.setPc _
  · rw [finishStep_of_offTape hon]
    exact (h.setPc _).raiseError _

theorem WriteSet.of_setDp {i : Instr} (hi : i ∈ [Instr.right, .left]) (d : Int) : WriteSet i s (s.setDp d) :=
  { WriteSet.refl i s with dp := .inr hi }

theorem WriteSet.of_setTape {i : Instr} (hi : i ∈ [Instr.inc, .dec, .input]) (hon : s.onTape s.dp) (v : Byte) :
    WriteSet i s (s.setTape (tapePut s.tape s.dp.toNat v)) :=
  { WriteSet.refl i s with tape := .inr ⟨hi, hon, v, rfl⟩ }

/-- A transaction writes the outside world, but no move of the host. -/
theorem WriteSet.setPort {i : Instr} (hi : i ∈ [Instr.output, .input]) (h : WriteSet i s t) {p : Port}
    (hp : p.moves = s.port.moves := by rfl) : WriteSet i s (t.setPort p) :=
  { h with moves := hp, port := .inr hi }

theorem writeSet_of_execOutput (h : execOutput s = .next t) : WriteSet .output s t := by
  have hout : Instr.output ∈ [Instr.output, .input] := by simp
  have hdrop : WriteSet .output s (dropOutAnswer s) := (WriteSet.refl _ s).setPort hout
  obtain ⟨-, ⟨-, rfl⟩ | ⟨-, rfl⟩⟩ := execOutput_next h
  · exact (hdrop.setPort hout).setPc _
  · exact hdrop.raiseError _

theorem writeSet_of_execInput (h : execInput s = .next t) : WriteSet .input s t := by
  have hin : Instr.input ∈ [Instr.output, .input] := by simp
  have hdrop : WriteSet .input s (dropInAnswer s) := (WriteSet.refl _ s).setPort hin
  obtain ⟨-, rfl⟩ | ⟨b, -, hon, rfl⟩ | ⟨-, rfl⟩ | ⟨-, rfl⟩ := execInput_next h
  · exact hdrop
  · exact ((WriteSet.of_setTape (by simp) hon b).setPort hin).setPc _
  · exact (hdrop.setPort hin).finishStep
  · exact (hdrop.setPort hin).raiseError _

theorem writeSet_of_branch {taken : Byte → Bool} (i : Instr) (h : branch taken s = .next t) :
    WriteSet i s t := by
  obtain ⟨-, ⟨q, -, -, rfl⟩ | ⟨-, rfl⟩⟩ := branch_next h <;> exact (WriteSet.refl i s).setPc _

/-- Every instruction keeps to its write set. -/
theorem exec_writeSet {i : Instr} (h : exec i s = .next t) : WriteSet i s t := by
  obtain ⟨rfl, rfl⟩ | ⟨rfl, rfl⟩ | ⟨d, hi, h⟩ | ⟨rfl, h⟩ | ⟨rfl, h⟩ | ⟨rfl, h⟩ | ⟨rfl, h⟩ | ⟨c, rfl, rfl⟩ :=
    exec_next h
  · exact (WriteSet.of_setDp (by simp) _).finishStep
  · exact (WriteSet.of_setDp (by simp) _).finishStep
  · obtain ⟨hon, rfl⟩ := addToCell_next h
    have hcell : i ∈ [Instr.inc, .dec, .input] := by rcases hi with ⟨rfl, -⟩ | ⟨rfl, -⟩ <;> simp
    exact (WriteSet.of_setTape hcell hon _).setPc _
  · exact writeSet_of_execOutput h
  · exact writeSet_of_execInput h
  · exact writeSet_of_branch _ h
  · exact writeSet_of_branch _ h
  · exact (WriteSet.refl _ s).finishStep

section WriteSet
variable {i : Instr} (h : WriteSet i s t)
include h

/-- No instruction writes a cell other than the active one. -/
theorem WriteSet.memRead_ne {a : Int} (ha : a ≠ s.dp) : memRead t a = memRead s a := by
  obtain htape | ⟨-, hon, v, htape⟩ := h.tape
  · exact memRead_of_tape_eq h.geom htape a
  · exact memRead_of_tape_eq_tapePut h.geom htape hon ha

/-- An instruction other than `+`, `-` and `,` writes no cell. -/
theorem WriteSet.memRead_eq (hi : i ∉ [Instr.inc, .dec, .input]) (a : Int) : memRead t a = memRead s a :=
  memRead_of_tape_eq h.geom (h.tape.resolve_right fun hw => hi hw.1) a

theorem WriteSet.dp_eq (hi : i ∉ [Instr.right, .left]) : t.dp = s.dp := h.dp.resolve_right hi

theorem WriteSet.port_eq (hi : i ∉ [Instr.output, .input]) : t.port = s.port := h.port.resolve_right hi

end WriteSet

/-! ### What an instruction does to `STATUS` -/

theorem finishStep_status_of_onTape (h : s.onTape s.dp) : (finishStep s).status = s.status := by
  rw [finishStep_of_onTape h, advancePc_status]

/-- The end of a step writes `STATUS` only if the pointer is off the tape. -/
theorem finishStep_status (s : State) :
    (finishStep s).status = s.status ∨
      (¬ (finishStep s).onTape (finishStep s).dp ∧
        (finishStep s).status = .halted (.error .pointerOutOfBounds)) := by
  by_cases hon : s.onTape s.dp
  · exact .inl (finishStep_status_of_onTape hon)
  · exact .inr ⟨by simpa [State.onTape] using hon, by rw [finishStep_of_offTape hon, raiseError_status]⟩

/-- `STATUS` after an instruction: as before, or halted off the tape or by a failed transaction. -/
theorem exec_status {i : Instr} (h : exec i s = .next t) :
    t.status = s.status ∨
      (¬ t.onTape t.dp ∧ t.status = .halted (.error .pointerOutOfBounds)) ∨
      (i = .input ∧ inAnswer s = some .failed ∧ t.status = .halted (.error .inputFailed)) ∨
      (i = .output ∧ outAnswer s = .failed ∧ t.status = .halted (.error .outputFailed)) := by
  obtain ⟨rfl, rfl⟩ | ⟨rfl, rfl⟩ | ⟨d, -, h⟩ | ⟨rfl, h⟩ | ⟨rfl, h⟩ | ⟨rfl, h⟩ | ⟨rfl, h⟩ | ⟨c, rfl, rfl⟩ :=
    exec_next h
  · exact (finishStep_status _).imp_right .inl
  · exact (finishStep_status _).imp_right .inl
  · obtain ⟨-, rfl⟩ := addToCell_next h
    exact .inl rfl
  · obtain ⟨-, ⟨-, rfl⟩ | ⟨hfail, rfl⟩⟩ := execOutput_next h
    · exact .inl rfl
    · exact .inr (.inr (.inr ⟨rfl, hfail, rfl⟩))
  · obtain ⟨-, rfl⟩ | ⟨b, -, -, rfl⟩ | ⟨-, rfl⟩ | ⟨hfail, rfl⟩ := execInput_next h
    · exact .inl rfl
    · exact .inl rfl
    · exact (finishStep_status _).imp_right .inl
    · exact .inr (.inr (.inl ⟨rfl, hfail, rfl⟩))
  · obtain ⟨-, ⟨q, -, -, rfl⟩ | ⟨-, rfl⟩⟩ := branch_next h <;> exact .inl rfl
  · obtain ⟨-, ⟨q, -, -, rfl⟩ | ⟨-, rfl⟩⟩ := branch_next h <;> exact .inl rfl
  · exact (finishStep_status _).imp_right .inl

/-! ### The engine's own step -/

/-- A scan step writes neither the program nor the tape nor the data pointer. -/
theorem scanStep_frame (h : scanStep s = .next t) : s.SameProgram t ∧ t.tape = s.tape ∧ t.dp = s.dp := by
  obtain ⟨-, -, -, rfl⟩ | ⟨-, -, -, rfl⟩ | ⟨o, -, -, -, -, rfl⟩ | ⟨c, -, -, -, -, rfl⟩ := scanStep_next h <;>
    exact ⟨⟨rfl, rfl, rfl⟩, rfl, rfl⟩

theorem closeStep_frame (s : State) :
    s.SameProgram (closeStep s) ∧ (closeStep s).tape = s.tape ∧ (closeStep s).dp = s.dp := by
  unfold closeStep
  split <;> exact ⟨⟨rfl, rfl, rfl⟩, rfl, rfl⟩

/-- A step of the engine runs the instruction at `pc`, or writes neither the program nor the tape nor the data
pointer. -/
theorem engineStep_instruction_or_frame (h : engineStep s = .next t) :
    (s.status = .running ∧ ∃ c, fetch s s.pc = .ok c ∧ exec (decode c) s = .next t) ∨
      (s.SameProgram t ∧ t.tape = s.tape ∧ t.dp = s.dp) := by
  obtain ⟨-, rfl⟩ | ⟨-, -, rfl⟩ | ⟨-, -, h⟩ | ⟨-, -, rfl⟩ | ⟨hs, c, hlt, hc, h⟩ | ⟨r, -, rfl⟩ := engineStep_next h
  · exact .inr ⟨⟨rfl, rfl, rfl⟩, rfl, rfl⟩
  · exact .inr (closeStep_frame s)
  · exact .inr (scanStep_frame h)
  · exact .inr ⟨⟨rfl, rfl, rfl⟩, rfl, rfl⟩
  · exact .inl ⟨hs, c, fetch_ok.2 ⟨hlt, hc⟩, h⟩
  · exact .inr ⟨⟨rfl, rfl, rfl⟩, rfl, rfl⟩

theorem engineStep_sameProgram (h : engineStep s = .next t) : s.SameProgram t := by
  obtain ⟨-, c, -, h⟩ | ⟨h, -, -⟩ := engineStep_instruction_or_frame h
  · exact (exec_writeSet h).toSameProgram
  · exact h

/-- Outside the pre-pass nothing of the resolver is written. -/
theorem engineStep_sameResolver (h : engineStep s = .next t) (hphase : s.status ≠ .resolving) :
    s.SameResolver t := by
  obtain ⟨-, rfl⟩ | ⟨hs, -, -⟩ | ⟨hs, -, -⟩ | ⟨-, -, rfl⟩ | ⟨-, c, -, -, h⟩ | ⟨r, -, rfl⟩ := engineStep_next h
  · exact ⟨rfl, rfl, rfl, rfl⟩
  · exact absurd hs hphase
  · exact absurd hs hphase
  · exact ⟨rfl, rfl, rfl, rfl⟩
  · exact (exec_writeSet h).toSameResolver
  · exact ⟨rfl, rfl, rfl, rfl⟩

/-- Where neither the tape nor `dp` is written, nothing need be known of what could write them. -/
theorem tape_and_dp_of_eq {p q : Prop} (hgeom : t.geom = s.geom) (htape : t.tape = s.tape)
    (hdp : t.dp = s.dp) :
    (∀ a, a ≠ s.dp → memRead t a = memRead s a) ∧ (memRead t s.dp ≠ memRead s s.dp → p) ∧ (t.dp ≠ s.dp → q) :=
  ⟨fun a _ => memRead_of_tape_eq hgeom htape a, fun hcell => absurd (memRead_of_tape_eq hgeom htape _) hcell,
    fun hmove => absurd hdp hmove⟩

/-- A step of the engine writes the active cell alone, at a `+`, `-` or `,`, and moves `dp` only at a `>` or `<`. -/
theorem engineStep_tape_and_dp (h : engineStep s = .next t) :
    (∀ a, a ≠ s.dp → memRead t a = memRead s a) ∧
    (memRead t s.dp ≠ memRead s s.dp →
      s.status = .running ∧ ∃ c ∈ [codeInc, codeDec, codeInput], fetch s s.pc = .ok c) ∧
    (t.dp ≠ s.dp → s.status = .running ∧ ∃ c ∈ [codeRight, codeLeft], fetch s s.pc = .ok c) := by
  obtain ⟨hrun, c, hc, h⟩ | ⟨hprog, htape, hdp⟩ := engineStep_instruction_or_frame h
  · have hw := exec_writeSet h
    refine ⟨fun a => hw.memRead_ne, fun hcell => ⟨hrun, c, ?_, hc⟩, fun hdp => ⟨hrun, c, ?_, hc⟩⟩
    · have hi : decode c ∈ [Instr.inc, .dec, .input] := by
        by_contra hi
        exact hcell (hw.memRead_eq hi s.dp)
      rw [← encode_decode c]
      exact List.mem_map_of_mem hi
    · have hi : decode c ∈ [Instr.right, .left] := hw.dp.resolve_left hdp
      rw [← encode_decode c]
      exact List.mem_map_of_mem hi
  · exact tape_and_dp_of_eq hprog.geom htape hdp

theorem engineStep_changes_status (h : engineStep s = .next t) (hne : t.status ≠ s.status) :
    (s.status = .resolving ∧ s.ri = s.len ∧ s.sp = 0 ∧ t.status = .running) ∨
    (s.status = .resolving ∧ ((s.closeAt s.ri ∧ s.sp = 0) ∨ (s.ri = s.len ∧ s.sp ≠ 0)) ∧
      t.status = .halted (.error .unmatchedBracket)) ∨
    (s.status = .running ∧ ¬ t.onTape t.dp ∧ t.status = .halted (.error .pointerOutOfBounds)) ∨
    (s.status = .running ∧ fetch s s.pc = .ok codeInput ∧
      inAnswer s = some .failed ∧ t.status = .halted (.error .inputFailed)) ∨
    (s.status = .running ∧ fetch s s.pc = .ok codeOutput ∧ outAnswer s = .failed ∧
      t.status = .halted (.error .outputFailed)) ∨
    (s.status = .running ∧ s.pc = s.len ∧ t.status = .halted .ok) := by
  obtain ⟨-, rfl⟩ | ⟨hs, hri, rfl⟩ | ⟨hs, -, h⟩ | ⟨hs, hpc, rfl⟩ | ⟨hs, c, hlt, hc, h⟩ | ⟨r, -, rfl⟩ :=
    engineStep_next h
  · exact absurd rfl hne
  · by_cases hsp : s.sp = 0
    · exact .inl ⟨hs, hri, hsp, by simp [closeStep, hsp]⟩
    · exact .inr (.inl ⟨hs, .inr ⟨hri, hsp⟩, by simp [closeStep, hsp]⟩)
  · obtain ⟨-, -, -, rfl⟩ | ⟨hlt, hclose, hsp, rfl⟩ | ⟨o, -, -, -, -, rfl⟩ | ⟨c, -, -, -, -, rfl⟩ := scanStep_next h
    · exact absurd rfl hne
    · exact .inr (.inl ⟨hs, .inl ⟨⟨hlt, hclose⟩, hsp⟩, rfl⟩)
    · exact absurd rfl hne
    · exact absurd rfl hne
  · exact .inr (.inr (.inr (.inr (.inr ⟨hs, hpc, rfl⟩))))
  · have hfetch : fetch s s.pc = .ok (encode (decode c)) := by rw [encode_decode]; exact fetch_ok.2 ⟨hlt, hc⟩
    obtain hsame | ⟨hoff, hhalt⟩ | ⟨hi, hfail, hhalt⟩ | ⟨hi, hfail, hhalt⟩ := exec_status h
    · exact absurd hsame hne
    · exact .inr (.inr (.inl ⟨hs, hoff, hhalt⟩))
    · rw [hi] at hfetch
      exact .inr (.inr (.inr (.inl ⟨hs, hfetch, hfail, hhalt⟩)))
    · rw [hi] at hfetch
      exact .inr (.inr (.inr (.inr (.inl ⟨hs, hfetch, hfail, hhalt⟩))))
  · exact absurd rfl hne

end Sys2Proof.Machine
end

section
/-! The frames of the instructions (10_state.md R36). -/

namespace Sys2Proof.Machine

/-- Settles O14: the write set of `>` and `<`, and the bounds check is what can write `STATUS`. -/
theorem pointerMoveFrame : Obligations.PointerMoveFrame := by
  intro i hi s t h
  have hw := exec_writeSet h
  have hcell : i ∉ [Instr.inc, .dec, .input] := by rcases List.mem_pair.1 hi with rfl | rfl <;> decide
  have hio : i ∉ [Instr.output, .input] := by rcases List.mem_pair.1 hi with rfl | rfl <;> decide
  refine ⟨hw.geom, hw.prog, hw.len, hw.jt, hw.ri, hw.sp, hw.stk, hw.port_eq hio, hw.memRead_eq hcell, fun hon => ?_⟩
  obtain hsame | ⟨hoff, -⟩ | ⟨rfl, -, -⟩ | ⟨rfl, -, -⟩ := exec_status h
  · exact hsame
  · exact absurd hon hoff
  · simp at hi
  · simp at hi

/-- Settles O15: the write set of `+` and `-`, which stop unless `dp` is on the tape and so pass the bounds check. -/
theorem cellArithFrame : Obligations.CellArithFrame := by
  intro i hi s t h
  have hw := exec_writeSet h
  have hmove : i ∉ [Instr.right, .left] := by rcases List.mem_pair.1 hi with rfl | rfl <;> decide
  have hio : i ∉ [Instr.output, .input] := by rcases List.mem_pair.1 hi with rfl | rfl <;> decide
  have hstatus : t.status = s.status := by
    obtain ⟨d, hd⟩ : ∃ d, exec i s = addToCell d s := by
      rcases List.mem_pair.1 hi with rfl | rfl <;> exact ⟨_, rfl⟩
    obtain ⟨-, rfl⟩ := addToCell_next (hd ▸ h)
    rfl
  exact ⟨hw.geom, hw.prog, hw.len, hw.jt, hw.ri, hw.sp, hw.stk, hw.port_eq hio, hw.dp_eq hmove, hstatus,
    fun a => hw.memRead_ne⟩

/-- Settles O16: taken or not, a bracket sets `pc`. -/
theorem bracketFrame : Obligations.BracketFrame := by
  intro i hi s t h
  have hcell : i ∉ [Instr.inc, .dec, .input] := by rcases List.mem_pair.1 hi with rfl | rfl <;> decide
  refine ⟨(exec_writeSet h).memRead_eq hcell, ?_⟩
  obtain ⟨taken, htaken⟩ : ∃ taken, exec i s = branch taken s := by
    rcases List.mem_pair.1 hi with rfl | rfl <;> exact ⟨_, rfl⟩
  obtain ⟨-, ⟨q, -, -, rfl⟩ | ⟨-, rfl⟩⟩ := branch_next (htaken ▸ h)
  · exact ⟨q, rfl⟩
  · exact ⟨s.pc + 1, rfl⟩

/-- Settles O17: `NOP` is the end of a step and nothing else. -/
theorem nopFrame : Obligations.NopFrame := by
  intro c s t h
  have hw := exec_writeSet h
  have ht : t = finishStep s := (Host.Outcome.next.inj h).symm
  exact ⟨hw.geom, hw.prog, hw.len, hw.jt, hw.ri, hw.sp, hw.stk, hw.port_eq (by simp), hw.dp_eq (by simp),
    hw.memRead_eq (by simp), fun hon => ht ▸ finishStep_status_of_onTape hon⟩

/-- Settles O18: the write set of `.`, and its two answers. -/
theorem outputFrame : Obligations.OutputFrame := by
  intro s t h
  have hw := exec_writeSet h
  refine ⟨hw.geom, hw.prog, hw.len, hw.jt, hw.ri, hw.sp, hw.stk, hw.dp_eq (by simp), hw.memRead_eq (by simp),
    hw.moves, ?_⟩
  obtain ⟨hon, ⟨hans, rfl⟩ | ⟨hans, rfl⟩⟩ := execOutput_next h
  · refine ⟨rfl, rfl, fun _ => ⟨rfl, _, memRead_ok.2 ⟨hon, rfl⟩, rfl⟩, fun hfail => ?_⟩
    simp [hans] at hfail
  · refine ⟨rfl, rfl, fun haccept => ?_, fun _ => ⟨rfl, rfl⟩⟩
    simp [hans] at haccept

/-- What `,` leaves of the output side. -/
theorem execInput_output_side {s t : State} (h : execInput s = .next t) :
    t.port.sent = s.port.sent ∧ t.port.outputs = s.port.outputs := by
  obtain ⟨-, rfl⟩ | ⟨b, -, -, rfl⟩ | ⟨-, rfl⟩ | ⟨-, rfl⟩ := execInput_next h <;> simp

/-- Where no byte is answered, `,` writes no cell. -/
theorem execInput_tape_of_no_byte {s t : State} (h : execInput s = .next t)
    (hno : ∀ b, inAnswer s ≠ some (.byte b)) : t.tape = s.tape := by
  obtain ⟨-, rfl⟩ | ⟨b, hbyte, -, -⟩ | ⟨-, rfl⟩ | ⟨-, rfl⟩ := execInput_next h
  case inr.inl => exact absurd hbyte (hno b)
  all_goals simp

/-- On the tape, only a failed read writes `STATUS`. -/
theorem execInput_status {s t : State} (h : execInput s = .next t) (hon : s.onTape s.dp)
    (hans : inAnswer s ≠ some .failed) : t.status = s.status := by
  obtain ⟨-, rfl⟩ | ⟨b, -, -, rfl⟩ | ⟨-, rfl⟩ | ⟨hfail, -⟩ := execInput_next h
  · rfl
  · rfl
  · exact finishStep_status_of_onTape hon
  · exact absurd hfail hans

/-- Settles O19: the write set of `,`, and what it does with each answer. -/
theorem inputFrame : Obligations.InputFrame := by
  intro s t h
  have hw := exec_writeSet h
  obtain ⟨hsent, houtputs⟩ := execInput_output_side h
  exact ⟨hw.geom, hw.prog, hw.len, hw.jt, hw.ri, hw.sp, hw.stk, hw.dp_eq (by simp), hw.moves, hsent, houtputs,
    fun a => hw.memRead_ne, fun hno => memRead_of_tape_eq hw.geom (execInput_tape_of_no_byte h hno),
    execInput_status h⟩

end Sys2Proof.Machine
end

section
/-! What a step of the machine changes (10_state.md R28 to R32, R36), the values after reset (R35) and the codes of
`STATUS` (R27). The host's idle move leaves the step to the engine, in a state that differs in the moves alone. -/

namespace Sys2Proof.Machine

/-- Settles O29: the rows of the engine's own step, `start` and reset. -/
theorem onlyTheTableOfTransitions : Obligations.OnlyTheTableOfTransitions := by
  intro s t h hne
  obtain ⟨-, h⟩ | ⟨rest, -, h⟩ | ⟨text, rest, -, -, rfl⟩ | ⟨rest, hm, ⟨hs, hlaunch, rfl⟩ | ⟨-, rfl⟩⟩ |
    ⟨rest, hm, rfl⟩ := systemStep_next h
  · exact .inr (.inr (engineStep_changes_status h hne))
  · exact .inr (.inr (engineStep_changes_status (s := dropMove s) h hne))
  · exact absurd rfl hne
  · exact .inr (.inl ⟨hs, ⟨rest, hm⟩, hlaunch, rfl⟩)
  · exact absurd rfl hne
  · exact .inl ⟨⟨rest, hm⟩, rfl⟩

/-- Settles O42: the engine keeps the sizes, and so does every move of the host. -/
theorem sizesNeverChange : Obligations.SizesNeverChange := by
  intro s t h
  obtain ⟨-, h⟩ | ⟨rest, -, h⟩ | ⟨text, rest, -, -, rfl⟩ | ⟨rest, -, ⟨-, -, rfl⟩ | ⟨-, rfl⟩⟩ | ⟨rest, -, rfl⟩ :=
    systemStep_next h
  · exact (engineStep_sameProgram h).geom
  · exact (engineStep_sameProgram h).geom
  · rfl
  · rfl
  · rfl
  · rfl

/-- The engine never writes the program, and the resolver's memories and registers only in the pre-pass. -/
theorem engineStep_program_and_table {s t : State} (h : engineStep s = .next t) :
    (t.prog = s.prog ∧ t.len = s.len) ∧ (s.status ≠ .resolving → t.jt = s.jt ∧ t.stk = s.stk) ∧
      (s.status ≠ .resolving → t.ri = s.ri ∧ t.sp = s.sp) := by
  have hprog := engineStep_sameProgram h
  have hres := engineStep_sameResolver h
  exact ⟨⟨hprog.prog, hprog.len⟩, fun hs => ⟨(hres hs).jt, (hres hs).stk⟩, fun hs => ⟨(hres hs).ri, (hres hs).sp⟩⟩

/-- Settles O43: the engine writes them only in the pre-pass, a load only in `Ready`, and `start` only `ri` and `sp`. -/
theorem programAndTableAreReadOnly : Obligations.ProgramAndTableAreReadOnly := by
  intro s t h hreset
  obtain ⟨-, h⟩ | ⟨rest, -, h⟩ | ⟨text, rest, hm, hready, rfl⟩ | ⟨rest, -, ⟨hready, -, rfl⟩ | ⟨-, rfl⟩⟩ |
    ⟨rest, hm, -⟩ := systemStep_next h
  · obtain ⟨hprog, htable, hscan⟩ := engineStep_program_and_table h
    exact ⟨fun _ => hprog, htable, fun hs _ => hscan hs⟩
  · obtain ⟨hprog, htable, hscan⟩ := engineStep_program_and_table h
    exact ⟨fun _ => hprog, htable, fun hs _ => hscan hs⟩
  · refine ⟨fun hno => ?_, fun _ => ⟨rfl, rfl⟩, fun _ _ => ⟨rfl, rfl⟩⟩
    rcases hno with hnot | hno
    · exact absurd hready hnot
    · exact absurd hm (hno text rest)
  · exact ⟨fun _ => ⟨rfl, rfl⟩, fun _ => ⟨rfl, rfl⟩, fun _ hnot => absurd hready hnot⟩
  · exact ⟨fun _ => ⟨rfl, rfl⟩, fun _ => ⟨rfl, rfl⟩, fun _ _ => ⟨rfl, rfl⟩⟩
  · exact absurd hm (hreset rest)

/-- Settles O44: the engine keeps to the write sets, and no move of the host but reset touches the tape or `dp`. -/
theorem onlyTheActiveCellIsWritten : Obligations.OnlyTheActiveCellIsWritten := by
  intro s t h hreset
  obtain ⟨-, h⟩ | ⟨rest, -, h⟩ | ⟨text, rest, -, -, rfl⟩ | ⟨rest, -, ⟨-, -, rfl⟩ | ⟨-, rfl⟩⟩ | ⟨rest, hm, -⟩ :=
    systemStep_next h
  · exact engineStep_tape_and_dp h
  · exact engineStep_tape_and_dp (s := dropMove s) h
  · exact tape_and_dp_of_eq rfl rfl rfl
  · exact tape_and_dp_of_eq rfl rfl rfl
  · exact tape_and_dp_of_eq rfl rfl rfl
  · exact absurd hm (hreset rest)

/-- Settles O25: an unlisted cell reads 0. -/
theorem resetValues : Obligations.ResetValues := by
  refine ⟨rfl, rfl, rfl, rfl, rfl, rfl, fun a hon => ?_⟩
  exact memRead_ok.2 ⟨hon, rfl⟩

/-- Settles O28: one code for each status, by the constructors of `Status`. -/
theorem statusTakesTheEightLegalValues : Obligations.StatusTakesTheEightLegalValues := by
  refine ⟨rfl, rfl, rfl, rfl, rfl, rfl, rfl, rfl, fun st => ?_⟩
  rcases st with _ | _ | _ | _ | kind
  case halted.error => cases kind <;> decide
  all_goals decide

end Sys2Proof.Machine
end

section
/-! The host's record of the run influences no step (10_state.md R34): from two states that differ in the record alone,
every meaning gives outcomes that differ in the record alone. -/

namespace Sys2Proof.Machine

/-- `s` with another record. -/
def State.withRecord (sent : List Byte) (answered : List InAnswer) (s : State) : State :=
  s.setPort { s.port with sent := sent, answered := answered }

/-- The same fault or refusal, or next states that differ in the record alone. -/
inductive AgreeButRecord : StepOutcome → StepOutcome → Prop where
  | next (t : State) (sent : List Byte) (answered : List InAnswer) :
      AgreeButRecord (.next t) (.next (t.withRecord sent answered))
  | fault (f : Fault) : AgreeButRecord (.fault f) (.fault f)
  | refused (r : Refusal) : AgreeButRecord (.refused r) (.refused r)

section
variable (s : State) (x : List Byte) (y : List InAnswer)

theorem agreeButRecord_onOk {α : Type} (r : Except Fault α) {k k' : α → StepOutcome}
    (h : ∀ v, AgreeButRecord (k v) (k' v)) : AgreeButRecord (onOk r k) (onOk r k') := by
  cases r with
  | ok v => exact h v
  | error f => exact .fault f

theorem agreeButRecord_ite (p : Prop) [Decidable p] {o₁ o₁' o₂ o₂' : StepOutcome}
    (h₁ : p → AgreeButRecord o₁ o₁') (h₂ : ¬ p → AgreeButRecord o₂ o₂') :
    AgreeButRecord (if p then o₁ else o₂) (if p then o₁' else o₂') := by
  split
  · next hp => exact h₁ hp
  · next hp => exact h₂ hp

/-- An access that answers a state, and what is done with it. -/
theorem agreeButRecord_onOk_state {r r' : Except Fault State} {k : State → StepOutcome}
    (hr : r' = r.map (State.withRecord x y)) (h : ∀ t, AgreeButRecord (k t) (k (t.withRecord x y))) :
    AgreeButRecord (onOk r k) (onOk r' k) := by
  subst hr
  cases r with
  | ok t => exact h t
  | error f => exact .fault f

theorem writeActive_withRecord (v : Byte) :
    writeActive (s.withRecord x y) v = (writeActive s v).map (State.withRecord x y) := by
  unfold writeActive memWrite
  rw [apply_ite (Except.map (State.withRecord x y))]
  rfl

theorem pushStack_withRecord (o : Nat) :
    pushStack (s.withRecord x y) o = (pushStack s o).map (State.withRecord x y) := by
  unfold pushStack
  rw [apply_ite (Except.map (State.withRecord x y))]
  rfl

theorem checkBounds_withRecord : checkBounds (s.withRecord x y) = (checkBounds s).withRecord x y := by
  unfold checkBounds
  rw [apply_ite (State.withRecord x y)]
  rfl

theorem finishStep_withRecord : finishStep (s.withRecord x y) = (finishStep s).withRecord x y :=
  checkBounds_withRecord (advancePc s) x y

theorem agreeButRecord_finishStep :
    AgreeButRecord (.next (finishStep s)) (.next (finishStep (s.withRecord x y))) := by
  rw [finishStep_withRecord]
  exact .next _ x y

/-- The end of `+`, `-` and of a `,` with a byte: the active cell is written, then the step ends. -/
theorem agreeButRecord_writeActive (v : Byte) :
    AgreeButRecord (onOk (writeActive s v) fun t => .next (finishStep t))
      (onOk (writeActive (s.withRecord x y) v) fun t => .next (finishStep t)) :=
  agreeButRecord_onOk_state x y (writeActive_withRecord s x y v) fun t => agreeButRecord_finishStep t x y

theorem agreeButRecord_addToCell (d : Int) : AgreeButRecord (addToCell d s) (addToCell d (s.withRecord x y)) :=
  agreeButRecord_onOk (readActive s) fun _ => agreeButRecord_writeActive s x y _

theorem agreeButRecord_execOutput : AgreeButRecord (execOutput s) (execOutput (s.withRecord x y)) := by
  refine agreeButRecord_onOk (readActive s) fun v => ?_
  have hans : outAnswer (s.withRecord x y) = outAnswer s := rfl
  rw [hans]
  cases outAnswer s with
  | accepted => exact agreeButRecord_finishStep (recordSent v (dropOutAnswer s)) (x ++ [v]) y
  | failed => exact .next (raiseError .outputFailed (dropOutAnswer s)) x y

theorem agreeButRecord_execInput : AgreeButRecord (execInput s) (execInput (s.withRecord x y)) := by
  have hans : inAnswer (s.withRecord x y) = inAnswer s := rfl
  unfold execInput
  rw [hans]
  cases inAnswer s with
  | none => exact .next (dropInAnswer s) x y
  | some a =>
    cases a with
    | byte b => exact agreeButRecord_writeActive (recordAnswer (.byte b) (dropInAnswer s)) x (y ++ [.byte b]) b
    | endOfInput =>
      exact agreeButRecord_finishStep (recordAnswer .endOfInput (dropInAnswer s)) x (y ++ [.endOfInput])
    | failed =>
      exact .next (raiseError .inputFailed (recordAnswer .failed (dropInAnswer s))) x (y ++ [.failed])

theorem agreeButRecord_takeJump : AgreeButRecord (takeJump s) (takeJump (s.withRecord x y)) :=
  agreeButRecord_onOk (partner s) fun q => by
    have hjump := checkBounds_withRecord (s.setPc q) x y
    exact hjump ▸ .next _ x y

theorem agreeButRecord_branch (taken : Byte → Bool) :
    AgreeButRecord (branch taken s) (branch taken (s.withRecord x y)) :=
  agreeButRecord_onOk (readActive s) fun v =>
    agreeButRecord_ite (taken v = true) (fun _ => agreeButRecord_takeJump s x y)
      fun _ => agreeButRecord_finishStep s x y

theorem agreeButRecord_exec (i : Instr) : AgreeButRecord (exec i s) (exec i (s.withRecord x y)) := by
  cases i with
  | right => exact agreeButRecord_finishStep (s.setDp (s.dp + 1)) x y
  | left => exact agreeButRecord_finishStep (s.setDp (s.dp - 1)) x y
  | inc => exact agreeButRecord_addToCell s x y 1
  | dec => exact agreeButRecord_addToCell s x y (-1)
  | output => exact agreeButRecord_execOutput s x y
  | input => exact agreeButRecord_execInput s x y
  | openLoop => exact agreeButRecord_branch s x y _
  | closeLoop => exact agreeButRecord_branch s x y _
  | nop c => exact agreeButRecord_finishStep s x y

theorem agreeButRecord_scanOpen : AgreeButRecord (scanOpen s) (scanOpen (s.withRecord x y)) :=
  agreeButRecord_onOk_state x y (pushStack_withRecord s x y s.ri) fun t => .next (t.setRi (s.ri + 1)) x y

theorem agreeButRecord_scanClose : AgreeButRecord (scanClose s) (scanClose (s.withRecord x y)) :=
  agreeButRecord_ite (s.sp = 0) (fun _ => .next (raiseError .unmatchedBracket s) x y) fun _ =>
    agreeButRecord_onOk (readStack s (s.sp - 1)) fun o =>
      .next ((pairBrackets (s.setSp (s.sp - 1)) o s.ri).setRi (s.ri + 1)) x y

theorem agreeButRecord_scanStep : AgreeButRecord (scanStep s) (scanStep (s.withRecord x y)) :=
  agreeButRecord_onOk (fetch s s.ri) fun c =>
    agreeButRecord_ite (c = codeOpen) (fun _ => agreeButRecord_scanOpen s x y) fun _ =>
      agreeButRecord_ite (c = codeClose) (fun _ => agreeButRecord_scanClose s x y) fun _ =>
        .next (s.setRi (s.ri + 1)) x y

theorem closeStep_withRecord : closeStep (s.withRecord x y) = (closeStep s).withRecord x y := by
  unfold closeStep
  rw [apply_ite (State.withRecord x y)]
  rfl

theorem agreeButRecord_resolverStep : AgreeButRecord (resolverStep s) (resolverStep (s.withRecord x y)) := by
  refine agreeButRecord_ite (s.ri = s.len) (fun _ => ?_) fun _ => agreeButRecord_scanStep s x y
  rw [closeStep_withRecord]
  exact .next _ x y

theorem agreeButRecord_runningStep : AgreeButRecord (runningStep s) (runningStep (s.withRecord x y)) :=
  agreeButRecord_ite (s.pc = s.len) (fun _ => .next (terminate s) x y) fun _ =>
    agreeButRecord_onOk (fetch s s.pc) fun c => agreeButRecord_exec s x y (decode c)

theorem agreeButRecord_engineStep : AgreeButRecord (engineStep s) (engineStep (s.withRecord x y)) := by
  have hstatus : (s.withRecord x y).status = s.status := rfl
  unfold engineStep
  rw [hstatus]
  cases s.status with
  | ready => exact .next s x y
  | resolving => exact agreeButRecord_resolverStep s x y
  | running => exact agreeButRecord_runningStep s x y
  | halted r => exact .next s x y

theorem agreeButRecord_hostLoad (text : List Byte) :
    AgreeButRecord (hostLoad text s) (hostLoad text (s.withRecord x y)) := by
  have hstatus : (s.withRecord x y).status = s.status := rfl
  unfold hostLoad
  rw [hstatus]
  cases s.status with
  | ready => exact .next (s.setProgram (textAt 0 text) text.length) x y
  | resolving => exact .refused _
  | running => exact .refused _
  | halted r => exact .refused _

theorem agreeButRecord_hostStart : AgreeButRecord (hostStart s) (hostStart (s.withRecord x y)) := by
  have hstatus : (s.withRecord x y).status = s.status := rfl
  unfold hostStart
  rw [hstatus]
  cases s.status with
  | ready => exact agreeButRecord_ite (launchable s) (fun _ => .next (launch s) x y) fun _ => .refused _
  | resolving => exact .next s x y
  | running => exact .next s x y
  | halted r => exact .next s x y

/-- A reset empties the record, whatever it was. -/
theorem agreeButRecord_hostReset : AgreeButRecord (hostReset s) (hostReset (s.withRecord x y)) :=
  .next (resetEngine s) [] []

theorem agreeButRecord_step : AgreeButRecord (step s) (step (s.withRecord x y)) := by
  have hmoves : (s.withRecord x y).port.moves = s.port.moves := rfl
  unfold step systemStep
  rw [hmoves]
  cases s.port.moves with
  | nil => exact agreeButRecord_engineStep s x y
  | cons m rest =>
    cases m with
    | idle => exact agreeButRecord_engineStep (dropMove s) x y
    | load text => exact agreeButRecord_hostLoad (dropMove s) x y text
    | start => exact agreeButRecord_hostStart (dropMove s) x y
    | reset => exact agreeButRecord_hostReset (dropMove s) x y

end

section
variable {o : StepOutcome}

theorem AgreeButRecord.of_next {t : State} (h : AgreeButRecord (.next t) o) :
    ∃ x y, o = .next (t.withRecord x y) := by
  cases h with
  | next _ x y => exact ⟨x, y, rfl⟩

theorem AgreeButRecord.of_fault {f : Fault} (h : AgreeButRecord (.fault f) o) : o = .fault f := by
  cases h with
  | fault => rfl

theorem AgreeButRecord.of_refused {r : Refusal} (h : AgreeButRecord (.refused r) o) : o = .refused r := by
  cases h with
  | refused => rfl

end

/-- Settles O46: the outcomes of the two steps agree but for the record. -/
theorem engineDoesNotReadTheRecord : Obligations.EngineDoesNotReadTheRecord := by
  intro s sent answered
  have hagree := agreeButRecord_step s sent answered
  exact ⟨fun t h => (h ▸ hagree).of_next, fun f h => (h ▸ hagree).of_fault, fun r h => (h ▸ hagree).of_refused⟩

end Sys2Proof.Machine
end

section
/-! What an access answers where the active cell is on the tape, and where it is not (20_memory.md R42, R50). -/

namespace Sys2Proof.Machine

variable {s : State}

theorem readActive_of_onTape (h : s.onTape s.dp) : readActive s = .ok (tapeGet s.tape s.dp.toNat) :=
  memRead_ok.2 ⟨h, rfl⟩

theorem readActive_of_offTape (h : ¬ s.onTape s.dp) : readActive s = .error (.tapeOutOfRange s.dp) :=
  memRead_error.2 ⟨h, rfl⟩

theorem writeActive_of_onTape (h : s.onTape s.dp) (v : Byte) :
    writeActive s v = .ok (s.setTape (tapePut s.tape s.dp.toNat v)) :=
  memWrite_ok.2 ⟨h, rfl⟩

theorem writeActive_of_offTape (h : ¬ s.onTape s.dp) (v : Byte) :
    writeActive s v = .error (.tapeOutOfRange s.dp) :=
  memWrite_error.2 ⟨h, rfl⟩

/-- An instruction that begins with a read of the active cell stops there if the cell does not exist. -/
theorem onOk_readActive_of_offTape (h : ¬ s.onTape s.dp) (k : Byte → StepOutcome) :
    onOk (readActive s) k = .fault (.tapeOutOfRange s.dp) := by
  rw [readActive_of_offTape h, onOk_error]

theorem inputEffect_byte_of_offTape (h : ¬ s.onTape s.dp) (b : Byte) :
    inputEffect (.byte b) s = .fault (.tapeOutOfRange s.dp) := by
  rw [inputEffect, writeActive_of_offTape h, onOk_error]

theorem execInput_of_answer {a : InAnswer} (h : inAnswer s = some a) :
    execInput s = inputEffect a (recordAnswer a (dropInAnswer s)) := by
  rw [execInput, h]

/-- Settles O13: `,` begins with a write of the active cell where a byte is answered, the others with a read of it. -/
theorem offTapeAccessStops : Obligations.OffTapeAccessStops := by
  intro s hoff
  constructor
  · intro i hi
    simp only [List.mem_cons, List.not_mem_nil, or_false] at hi
    rcases hi with rfl | rfl | rfl | rfl | rfl <;> exact onOk_readActive_of_offTape hoff _
  · intro b hb
    calc exec .input s
        = inputEffect (.byte b) (recordAnswer (.byte b) (dropInAnswer s)) := execInput_of_answer hb
      _ = .fault (.tapeOutOfRange s.dp) :=
        inputEffect_byte_of_offTape (s := recordAnswer (.byte b) (dropInAnswer s)) hoff b

end Sys2Proof.Machine
end

section
/-! The canonical forms of the memories (log entry 4): a tape in its form lists exactly the cells that are not 0, and every
step keeps the forms. -/

namespace Sys2Proof.Machine

variable {α : Type} {s t : State}

/-- A sorted memory lists an entry exactly where it reads it. -/
theorem mem_iff_storeGet {m : List (Nat × α)} (hm : storeSorted m) {e : Nat × α} :
    e ∈ m ↔ storeGet m e.1 = some e.2 :=
  ⟨storeGet_of_mem hm, mem_of_storeGet⟩

/-- A tape in canonical form lists exactly the cells that are not 0. -/
theorem mem_iff_tapeGet {m : Memory} (hm : Memory.wf m) {c : Host.Cell} :
    c ∈ m ↔ tapeGet m c.1 = c.2 ∧ c.2 ≠ tapeDefault := by
  obtain ⟨hsorted, hlisted⟩ := hm
  constructor
  · intro hc
    exact ⟨by simp [tapeGet, storeGet_of_mem hsorted hc], hlisted c hc⟩
  · rintro ⟨hread, hne⟩
    rw [mem_iff_storeGet hsorted]
    cases hget : storeGet m c.1 with
    | none =>
      rw [tapeGet, hget, Option.getD_none] at hread
      exact absurd hread.symm hne
    | some v =>
      rw [tapeGet, hget, Option.getD_some] at hread
      rw [hread]

/-- Sorted memories with the same entries are the same list. -/
theorem eq_of_storeSorted_of_mem_iff {m m' : List (Nat × α)} (hm : storeSorted m) (hm' : storeSorted m')
    (h : ∀ e, e ∈ m ↔ e ∈ m') : m = m' := by
  have hirrefl : Std.Irrefl fun x y : Nat × α => x.1 < y.1 := ⟨fun x => Nat.lt_irrefl x.1⟩
  have hantisymm : Std.Antisymm fun x y : Nat × α => x.1 < y.1 :=
    ⟨fun _ _ hxy hyx => absurd hxy (Nat.lt_asymm hyx)⟩
  exact hm.eq_of_mem_iff hm' h

/-- Settles O40: what a canonical tape lists is what it reads, and a sorted list is fixed by its entries. -/
theorem canonicalTapesAreEqualWhenTheyReadEqual : Obligations.CanonicalTapesAreEqualWhenTheyReadEqual := by
  intro m m' hm hm' hread
  refine eq_of_storeSorted_of_mem_iff hm.1 hm'.1 fun c => ?_
  rw [mem_iff_tapeGet hm, mem_iff_tapeGet hm', hread]

/-! ### Every step keeps the forms -/

theorem WriteSet.memoryRight {i : Instr} (h : WriteSet i s t) (hs : s.MemoryRight) : t.MemoryRight where
  prog := h.prog ▸ hs.prog
  tape := by
    obtain htape | ⟨-, -, v, htape⟩ := h.tape
    · exact htape ▸ hs.tape
    · exact htape ▸ tapePut_wf hs.tape _ v
  jt := h.jt ▸ hs.jt
  stk := h.stk ▸ hs.stk

theorem scanStep_memoryRight (hs : s.MemoryRight) (h : scanStep s = .next t) : t.MemoryRight := by
  obtain ⟨-, -, -, rfl⟩ | ⟨-, -, -, rfl⟩ | ⟨o, -, -, -, -, rfl⟩ | ⟨c, -, -, -, -, rfl⟩ := scanStep_next h
  · exact { hs with stk := storePut_sorted hs.stk _ _ }
  · exact { hs with }
  · exact { hs with jt := pairBrackets_sorted hs.jt }
  · exact { hs with }

theorem closeStep_memoryRight (hs : s.MemoryRight) : (closeStep s).MemoryRight := by
  unfold closeStep
  split <;> exact { hs with }

theorem engineStep_memoryRight (hs : s.MemoryRight) (h : engineStep s = .next t) : t.MemoryRight := by
  obtain ⟨-, rfl⟩ | ⟨-, -, rfl⟩ | ⟨-, -, h⟩ | ⟨-, -, rfl⟩ | ⟨-, c, -, -, h⟩ | ⟨r, -, rfl⟩ := engineStep_next h
  · exact hs
  · exact closeStep_memoryRight hs
  · exact scanStep_memoryRight hs h
  · exact { hs with }
  · exact (exec_writeSet h).memoryRight hs
  · exact hs

theorem dropMove_memoryRight (hs : s.MemoryRight) : (dropMove s).MemoryRight := { hs with }

theorem resetEngine_memoryRight (s : State) : (resetEngine s).MemoryRight := by
  obtain ⟨htape, hprog, hjt, hstk⟩ := reset_memories
  exact ⟨hprog, htape, hjt, hstk⟩

/-- Settles O39: the engine's own step keeps the forms, a load writes a sorted text, and a reset empties the memories. -/
theorem everyStepKeepsTheMemoryForms : Obligations.EveryStepKeepsTheMemoryForms := by
  intro s t hs h
  obtain ⟨-, h⟩ | ⟨rest, -, h⟩ | ⟨text, rest, -, -, rfl⟩ | ⟨rest, -, ⟨-, -, rfl⟩ | ⟨-, rfl⟩⟩ | ⟨rest, -, rfl⟩ :=
    systemStep_next h
  · exact engineStep_memoryRight hs h
  · exact engineStep_memoryRight (dropMove_memoryRight hs) h
  · exact { hs with prog := textAt_sorted text 0 }
  · exact { hs with }
  · exact dropMove_memoryRight hs
  · exact resetEngine_memoryRight _

end Sys2Proof.Machine
end

section
/-! No access of a step goes wrong where the invariant holds (20_memory.md R50): each meaning answers a next state if the
entries it reads are there, and the invariant says that they are. -/

namespace Sys2Proof.Machine

variable {s : State}

/-- An access that has its value leaves the answer to what is done with it. -/
theorem onOk_answers {α : Type} {r : Except Fault α} {k : α → StepOutcome} {x : α} (hr : r = .ok x)
    (hk : ∃ t, k x = .next t) : ∃ t, onOk r k = .next t := by
  rwa [hr, onOk_ok]

/-! ### Instructions -/

theorem writeActive_finishStep_answers (h : s.onTape s.dp) (v : Byte) :
    ∃ t, (onOk (writeActive s v) fun t => .next (finishStep t)) = .next t :=
  onOk_answers (writeActive_of_onTape h v) ⟨_, rfl⟩

theorem addToCell_answers (h : s.onTape s.dp) (d : Int) : ∃ t, addToCell d s = .next t :=
  onOk_answers (readActive_of_onTape h) (writeActive_finishStep_answers h _)

theorem execOutput_answers (h : s.onTape s.dp) : ∃ t, execOutput s = .next t :=
  onOk_answers (readActive_of_onTape h) ⟨_, rfl⟩

theorem inputEffect_answers (h : s.onTape s.dp) (a : InAnswer) : ∃ t, inputEffect a s = .next t := by
  cases a with
  | byte b => exact writeActive_finishStep_answers h b
  | endOfInput => exact ⟨_, rfl⟩
  | failed => exact ⟨_, rfl⟩

theorem execInput_answers (h : s.onTape s.dp) : ∃ t, execInput s = .next t := by
  cases ha : inAnswer s with
  | none => exact ⟨dropInAnswer s, by rw [execInput, ha]⟩
  | some a =>
    rw [execInput_of_answer ha]
    exact inputEffect_answers (s := recordAnswer a (dropInAnswer s)) h a

theorem branch_answers (h : s.onTape s.dp) (hjump : ∃ q, storeGet s.jt s.pc = some q) (taken : Byte → Bool) :
    ∃ t, branch taken s = .next t := by
  refine onOk_answers (readActive_of_onTape h) ?_
  split
  · obtain ⟨q, hq⟩ := hjump
    exact onOk_answers (readJump_ok.2 hq) ⟨_, rfl⟩
  · exact ⟨_, rfl⟩

/-- An instruction answers a next state if the active cell exists and a bracket has its entry in the table. -/
theorem exec_answers {i : Instr} (h : s.onTape s.dp)
    (hjump : i ∈ [Instr.openLoop, .closeLoop] → ∃ q, storeGet s.jt s.pc = some q) : ∃ t, exec i s = .next t := by
  cases i with
  | right => exact ⟨_, rfl⟩
  | left => exact ⟨_, rfl⟩
  | inc => exact addToCell_answers h 1
  | dec => exact addToCell_answers h (-1)
  | output => exact execOutput_answers h
  | input => exact execInput_answers h
  | openLoop => exact branch_answers h (hjump (by simp)) _
  | closeLoop => exact branch_answers h (hjump (by simp)) _
  | nop c => exact ⟨_, rfl⟩

/-! ### The resolver -/

theorem scanOpen_answers (h : s.sp < s.geom.progMax) : ∃ t, scanOpen s = .next t :=
  onOk_answers (pushStack_ok.2 ⟨h, rfl⟩) ⟨_, rfl⟩

theorem scanClose_answers (h : s.sp ≠ 0 → ∃ o, storeGet s.stk (s.sp - 1) = some o) :
    ∃ t, scanClose s = .next t := by
  unfold scanClose
  split
  · exact ⟨_, rfl⟩
  · next hsp =>
    obtain ⟨o, ho⟩ := h hsp
    exact onOk_answers (readStack_ok.2 ho) ⟨_, rfl⟩

/-- A scan step answers a next state if the character is there, the stack has room and its top entry is listed. -/
theorem scanStep_answers {c : Byte} (hfetch : fetch s s.ri = .ok c) (hroom : s.sp < s.geom.progMax)
    (hpop : s.sp ≠ 0 → ∃ o, storeGet s.stk (s.sp - 1) = some o) : ∃ t, scanStep s = .next t := by
  refine onOk_answers hfetch ?_
  split
  · exact scanOpen_answers hroom
  · split
    · exact scanClose_answers hpop
    · exact ⟨_, rfl⟩

/-! ### What the invariant gives them -/

/-- Taking the host's next move is nothing to the invariant. -/
theorem dropMove_inv (h : s.Inv) : (dropMove s).Inv :=
  { h with
    memory := dropMove_memoryRight h.memory
    scanning := fun hs => { h.scanning hs with }
    table := fun hs => { h.table hs with } }

theorem State.Inv.fetch_answers (h : s.Inv) {p : Nat} (hp : p < s.len) : ∃ c, fetch s p = .ok c := by
  obtain ⟨c, hc⟩ := Option.isSome_iff_exists.1 (h.loaded p hp)
  exact ⟨c, fetch_ok.2 ⟨hp, hc⟩⟩

theorem State.ScanRight.top_listed (h : s.ScanRight) (hsp : s.sp ≠ 0) : ∃ o, storeGet s.stk (s.sp - 1) = some o := by
  obtain ⟨o, -, ho, -⟩ := h.stack (s.sp - 1) (by omega)
  exact ⟨o, ho⟩

theorem State.Inv.resolverStep_answers (h : s.Inv) (hs : s.status = .resolving) :
    ∃ t, resolverStep s = .next t := by
  have hscan : s.ScanRight := h.scanning hs
  have hlen : s.len ≤ s.geom.progMax := h.len_le_progMax (by simp [hs])
  unfold resolverStep
  split
  · exact ⟨_, rfl⟩
  · next hri =>
    have hlt : s.ri < s.len := Nat.lt_of_le_of_ne hscan.ri_le hri
    obtain ⟨c, hc⟩ := h.fetch_answers hlt
    exact scanStep_answers hc ((hscan.sp_le.trans_lt hlt).trans_le hlen) hscan.top_listed

/-- The character of a bracket instruction is a bracket of the text. -/
theorem bracketAt_of_decode {p : Nat} {c : Byte} (hc : fetch s p = .ok c)
    (hi : decode c ∈ [Instr.openLoop, .closeLoop]) : s.bracketAt p := by
  obtain ⟨hp, hget⟩ := fetch_ok.1 hc
  rw [← encode_decode c] at hget
  rcases List.mem_pair.1 hi with hd | hd
  · exact .inl ⟨hp, by rw [hget, hd, encode]⟩
  · exact .inr ⟨hp, by rw [hget, hd, encode]⟩

theorem State.Inv.runningStep_answers (h : s.Inv) (hs : s.status = .running) : ∃ t, runningStep s = .next t := by
  have htape : s.onTape s.dp := h.dp_in (by simp [hs])
  have htable : s.TableRight := h.table (by simp [hs, Status.untouched])
  unfold runningStep
  split
  · exact ⟨_, rfl⟩
  · next hpc =>
    have hlt : s.pc < s.len := Nat.lt_of_le_of_ne h.pc_le hpc
    obtain ⟨c, hc⟩ := h.fetch_answers hlt
    refine onOk_answers hc (exec_answers htape fun hi => ?_)
    obtain ⟨q, -, hq⟩ := htable.complete s.pc hlt (bracketAt_of_decode hc hi)
    exact ⟨q, hq⟩

/-- The engine's own step neither faults nor refuses. -/
theorem State.Inv.engineStep_answers (h : s.Inv) : ∃ t, engineStep s = .next t := by
  unfold engineStep
  split
  · exact ⟨_, rfl⟩
  · next hs => exact h.resolverStep_answers hs
  · next hs => exact h.runningStep_answers hs
  · exact ⟨_, rfl⟩

/-! ### The moves of the host -/

theorem hostLoad_answers_or_refuses (text : List Byte) (s : State) :
    (∃ t, hostLoad text s = .next t) ∨
      (s.status ≠ .ready ∧ hostLoad text s = .refused .programInterfaceClosed) := by
  unfold hostLoad
  split
  case h_1 => exact .inl ⟨_, rfl⟩
  all_goals next hs => exact .inr ⟨by simp [hs], rfl⟩

theorem hostStart_answers_or_refuses (s : State) :
    (∃ t, hostStart s = .next t) ∨
      (s.status = .ready ∧ ¬ launchable s ∧ hostStart s = .refused .launchOutsideContract) := by
  unfold hostStart
  split
  case h_1 hs =>
    by_cases hl : launchable s
    · exact .inl ⟨launch s, if_pos hl⟩
    · exact .inr ⟨hs, hl, if_neg hl⟩
  all_goals exact .inl ⟨_, rfl⟩

/-- From a state that meets the invariant a step answers a next state, or refuses a `start` outside the launch premises
or a load outside `Ready`. -/
theorem State.Inv.step_answers_or_refuses (h : s.Inv) :
    (∃ t, step s = .next t) ∨
      (∃ rest, s.port.moves = .start :: rest ∧ s.status = .ready ∧ ¬ launchable s ∧
        step s = .refused .launchOutsideContract) ∨
      (∃ text rest, s.port.moves = .load text :: rest ∧ s.status ≠ .ready ∧
        step s = .refused .programInterfaceClosed) := by
  unfold step systemStep
  split
  · exact .inl h.engineStep_answers
  · exact .inl (dropMove_inv h).engineStep_answers
  · next text rest hm =>
    exact (hostLoad_answers_or_refuses text (dropMove s)).imp_right fun hr => .inr ⟨text, rest, hm, hr⟩
  · next rest hm =>
    exact (hostStart_answers_or_refuses (dropMove s)).imp_right fun hr => .inl ⟨rest, hm, hr⟩
  · exact .inl ⟨_, rfl⟩

/-- Settles O38: the step answers a next state, but for the two refusals. -/
theorem noStepFaults : Obligations.NoStepFaults := by
  intro s h
  obtain ⟨t, ht⟩ | ⟨rest, hm, hs, hl, hr⟩ | ⟨text, rest, hm, hs, hr⟩ := h.step_answers_or_refuses
  · exact ⟨by simp [ht], by simp [ht]⟩
  · refine ⟨by simp [hr], fun r hstep => .inl ⟨rest, hm, hs, hl, ?_⟩⟩
    exact (Host.Outcome.refused.inj (hr.symm.trans hstep)).symm
  · refine ⟨by simp [hr], fun r hstep => .inr ⟨text, rest, hm, hs, ?_⟩⟩
    exact (Host.Outcome.refused.inj (hr.symm.trans hstep)).symm

end Sys2Proof.Machine
end

section
/-! The decoder and the encoder are inverse to each other on the well-formed instructions (30_encoding.md R63, R64), and a
loaded text is fetched position by position (47_host_interface.md R172). -/

namespace Sys2Proof.Machine

/-! ### Characters -/

/-- No row of the opcode map matches a character of the no-operation space. -/
theorem find?_opcodeTable_eq_none {c : Byte} :
    opcodeTable.find? (fun row => row.1 == c) = none ↔ isInstructionCode c = false := by
  rw [List.find?_eq_none, isInstructionCode, List.any_eq_false]

theorem decode_of_not_isInstructionCode {c : Byte} (h : isInstructionCode c = false) : decode c = .nop c := by
  rw [decode, find?_opcodeTable_eq_none.2 h]

theorem wellFormed_nop {c : Byte} : (Instr.nop c).wellFormed = true ↔ isInstructionCode c = false := by
  simp [Instr.wellFormed]

theorem decode_encode {i : Instr} (h : i.wellFormed = true) : decode (encode i) = i := by
  cases i with
  | nop c => exact decode_of_not_isInstructionCode (wellFormed_nop.1 h)
  | right | left | inc | dec | output | input | openLoop | closeLoop => rfl

theorem decode_wellFormed (c : Byte) : (decode c).wellFormed = true := by
  have hrows : ∀ row ∈ opcodeTable, row.2.wellFormed = true := by decide
  unfold decode
  split
  · next row hfind => exact hrows row (List.mem_of_find?_eq_some hfind)
  · next hnone => exact wellFormed_nop.2 (find?_opcodeTable_eq_none.1 hnone)

/-- Settles O2: `encode` is a left and a right inverse of `decode` on the well-formed instructions. -/
theorem everyCharacterDecodes : Obligations.EveryCharacterDecodes := by
  intro c
  refine ⟨decode_wellFormed c, encode_decode c, ?_⟩
  rintro i hi rfl
  exact (decode_encode hi).symm

/-- Settles O3: each code is the encoding of its instruction, and each near miss that of a well-formed `NOP`. -/
theorem tableCodesDecode : Obligations.TableCodesDecode :=
  ⟨decode_encode (i := .right) rfl, decode_encode (i := .left) rfl, decode_encode (i := .inc) rfl,
    decode_encode (i := .dec) rfl, decode_encode (i := .output) rfl, decode_encode (i := .input) rfl,
    decode_encode (i := .openLoop) rfl, decode_encode (i := .closeLoop) rfl,
    decode_encode (i := .nop 0x3D) rfl, decode_encode (i := .nop 0x5C) rfl, decode_encode (i := .nop 0x00) rfl⟩

/-! ### Byte streams and loaded texts -/

variable {s : State}

theorem decodeBytes_encodeBytes_append {i : Instr} (h : i.wellFormed = true) (rest : List Byte) :
    decodeBytes (encodeBytes i ++ rest) = .ok (i, rest) := by
  rw [encodeBytes, List.singleton_append, decodeBytes, decode_encode h]

theorem hostLoad_of_ready (hs : s.status = .ready) (text : List Byte) :
    hostLoad text s = .next (s.setProgram (textAt 0 text) text.length) := by
  rw [hostLoad, hs]

/-- In `Ready` a load takes the host's move and writes the text and its length (47_host_interface.md R171). -/
theorem step_load_of_ready {text : List Byte} {rest : List HostMove} (hs : s.status = .ready)
    (hm : s.port.moves = .load text :: rest) :
    step s = .next ((dropMove s).setProgram (textAt 0 text) text.length) := by
  rw [step, systemStep, hm]
  exact hostLoad_of_ready (s := dropMove s) hs text

/-- A loaded text answers a fetch with its character at that position. -/
theorem fetch_setProgram_textAt {text : List Byte} {p : Nat} {c : Byte} (h : text[p]? = some c) :
    fetch (s.setProgram (textAt 0 text) text.length) p = .ok c := by
  obtain ⟨hp, -⟩ := List.getElem?_eq_some_iff.1 h
  have hread : storeGet (textAt 0 text) p = some c := by simpa [h] using storeGet_textAt text 0 p
  exact fetch_ok.2 ⟨hp, hread⟩

/-- Settles O1: the load puts the encoding of the `p`-th instruction at position `p`, and it decodes to that
instruction. -/
theorem decodeEncodeAgree : Obligations.DecodeEncodeAgree := by
  refine ⟨fun i rest hi => decodeBytes_encodeBytes_append hi rest, ?_⟩
  intro is s hwf hs hm
  refine ⟨_, step_load_of_ready hs hm, List.length_map .., ?_⟩
  intro p i hi
  have hchar : (is.map encode)[p]? = some (encode i) := by rw [List.getElem?_map, hi, Option.map_some]
  exact ⟨encode i, fetch_setProgram_textAt hchar, decode_encode (hwf i (List.mem_of_getElem? hi))⟩

end Sys2Proof.Machine
end

section
/-! Which step is taken, by phase and by the host's next move (40_dispatch.md R81, R83, R86). -/

namespace Sys2Proof.Machine

variable {s : State}

/-! ### The host's next move -/

theorem step_of_no_move (hm : s.port.moves = []) : step s = engineStep s := by
  rw [step, systemStep, hm]

theorem step_of_idle {rest : List HostMove} (hm : s.port.moves = .idle :: rest) :
    step s = engineStep (dropMove s) := by
  rw [step, systemStep, hm]

theorem step_of_start {rest : List HostMove} (hm : s.port.moves = .start :: rest) :
    step s = hostStart (dropMove s) := by
  rw [step, systemStep, hm]

/-- With the next move taken, the moves after it are left, and nothing else has changed. -/
theorem dropMove_of_moves {m : HostMove} {rest : List HostMove} (hm : s.port.moves = m :: rest) :
    dropMove s = { s with port := { s.port with moves := rest } } := by
  rw [dropMove, hm]
  rfl

/-- A move listed for a host that has none, once taken, leaves the state as it was. -/
theorem dropMove_listed (hm : s.port.moves = []) (m : HostMove) :
    dropMove { s with port := { s.port with moves := [m] } } = s := by
  calc dropMove { s with port := { s.port with moves := [m] } }
      = { s with port := { s.port with moves := [] } } := dropMove_of_moves rfl
    _ = s := by rw [← hm]

/-! ### The phase -/

theorem engineStep_of_running (hs : s.status = .running) : engineStep s = runningStep s := by
  rw [engineStep, hs]

theorem engineStep_of_ready (hs : s.status = .ready) : engineStep s = .next s := by
  rw [engineStep, hs]

theorem engineStep_of_halted {r : RunResult} (hs : s.status = .halted r) : engineStep s = .next s := by
  rw [engineStep, hs]

theorem hostStart_of_halted {r : RunResult} (hs : s.status = .halted r) : hostStart s = .next s := by
  rw [hostStart, hs]

/-- In `Running` with a character at `pc` the engine's step is the instruction it decodes to. -/
theorem engineStep_of_fetch {c : Byte} (hs : s.status = .running) (hc : fetch s s.pc = .ok c) :
    engineStep s = exec (decode c) s := by
  have hlt : s.pc < s.len := (fetch_ok.1 hc).1
  rw [engineStep_of_running hs, runningStep, if_neg hlt.ne, instructionStep, hc, onOk_ok]

/-- In `Running` at `pc = LEN` the engine's step is the termination transition. -/
theorem engineStep_at_end (hs : s.status = .running) (hpc : s.pc = s.len) :
    engineStep s = .next (terminate s) := by
  rw [engineStep_of_running hs, runningStep, if_pos hpc]

/-- Settles O20: the step is the engine's own, after the idle move if there is one, and that is the instruction at
`pc`. -/
theorem stepRunsTheDecodedInstruction : Obligations.StepRunsTheDecodedInstruction := by
  intro s c i hs _ hc hdecode
  obtain rfl : decode c = i := by simpa [decodeBytes] using hdecode
  refine ⟨fun hm => ?_, fun rest hm => ?_⟩
  · rw [step_of_no_move hm, engineStep_of_fetch hs hc]
  · rw [step_of_idle hm, engineStep_of_fetch (s := dropMove s) hs hc, dropMove_of_moves hm]

/-- Settles O21: the engine's own step at the end of the program is `terminate`. -/
theorem terminationAtTheEnd : Obligations.TerminationAtTheEnd := by
  intro s hs hpc hm
  rw [step_of_no_move hm, engineStep_at_end hs hpc]
  rfl

/-! ### Phases without a step -/

/-- A state that a step answers unchanged is answered unchanged by any number of steps. -/
theorem stepTimes_of_step_eq_self (h : step s = .next s) (n : Nat) : stepTimes n s = .next s := by
  induction n with
  | zero => rfl
  | succ n ih => rw [stepTimes, h]; exact ih

/-- Settles O22: neither phase has a step of the engine, and `start` finds no `Ready` to act on. -/
theorem readyAndHaltedStay : Obligations.ReadyAndHaltedStay := by
  intro s hs hm
  refine ⟨stepTimes_of_step_eq_self ?_, fun r hr => ?_⟩
  · rw [step_of_no_move hm]
    obtain hready | ⟨r, hr⟩ := hs
    · exact engineStep_of_ready hready
    · exact engineStep_of_halted hr
  · rw [step_of_start rfl, dropMove_listed hm, hostStart_of_halted hr]

end Sys2Proof.Machine
end

section
/-! The scan of the pre-pass keeps what it has established (46_jump_resolver.md R153, R155): the counts follow the balance
of the character scanned, a pending `[` stays pending until it is popped, and a pop joins a matched pair. -/

namespace Sys2Proof.Machine

variable {s t : State}

/-! ### The balance of one more character -/

theorem balance_succ {prog : Memory} {n : Nat} {c : Byte} (hc : storeGet prog n = some c) :
    balance prog (n + 1) = balance prog n + bracketWeight c := by
  simp [balance, hc]

theorem bracketWeight_open : bracketWeight codeOpen = 1 := rfl

theorem bracketWeight_close : bracketWeight codeClose = -1 := rfl

theorem bracketWeight_other {c : Byte} (ho : c ≠ codeOpen) (hc : c ≠ codeClose) : bracketWeight c = 0 := by
  simp [bracketWeight, ho, hc]

theorem bracketWeight_le_one (c : Byte) : bracketWeight c ≤ 1 := by
  unfold bracketWeight
  split
  · exact le_rfl
  · split <;> decide

/-! ### Places of the table -/

/-- Nothing at or above the scan position has an entry yet. -/
theorem State.ScanRight.jt_unscanned (h : s.ScanRight) {p : Nat} (hp : s.ri ≤ p) : storeGet s.jt p = none := by
  rw [Option.eq_none_iff_forall_ne_some]
  intro q hq
  have hlt : p < s.ri := (h.right (p, q) (mem_of_storeGet hq)).1
  omega

/-- The table after a pair has been recorded. -/
theorem storeGet_pairBrackets (o c p : Nat) :
    storeGet (pairBrackets s o c).jt p =
      if p = c then some o else if p = o then some c else storeGet s.jt p := by
  rw [pairBrackets_jt, storeGet_storePut, storeGet_storePut]

/-- What the table lists after a pair has been recorded. -/
theorem mem_pairBrackets {o c : Nat} {e : Nat × Nat} (he : e ∈ (pairBrackets s o c).jt) :
    e = (c, o) ∨ e = (o, c) ∨ e ∈ s.jt :=
  (mem_storePut he).imp_right mem_storePut

/-! ### The same text in another state -/

theorem State.SameProgram.openAt_iff (h : s.SameProgram t) {p : Nat} : t.openAt p ↔ s.openAt p := by
  rw [State.openAt, State.openAt, h.len, h.prog]

theorem State.SameProgram.closeAt_iff (h : s.SameProgram t) {p : Nat} : t.closeAt p ↔ s.closeAt p := by
  rw [State.closeAt, State.closeAt, h.len, h.prog]

theorem State.SameProgram.bracketAt_iff (h : s.SameProgram t) {p : Nat} : t.bracketAt p ↔ s.bracketAt p :=
  or_congr h.openAt_iff h.closeAt_iff

theorem State.SameProgram.matched_iff (h : s.SameProgram t) {o c : Nat} : t.matched o c ↔ s.matched o c := by
  rw [State.matched, State.matched, h.openAt_iff, h.closeAt_iff, h.prog]

/-- An entry of the table stays right as long as its partner's entry stays. -/
theorem State.SameProgram.entryRight (h : s.SameProgram t) {p q : Nat} (he : s.entryRight p q)
    (hjt : storeGet t.jt q = storeGet s.jt q) : t.entryRight p q := by
  obtain ⟨hback, hmatched⟩ := he
  exact ⟨hjt ▸ hback, hmatched.imp h.matched_iff.2 h.matched_iff.2⟩

/-! ### Places of the stack -/

/-- What the stack lists below `sp` is a pending `[`. -/
theorem State.ScanRight.pending_of_stacked (h : s.ScanRight) {k o : Nat} (hk : k < s.sp)
    (ho : storeGet s.stk k = some o) : s.pending k o := by
  obtain ⟨o', -, ho', hpend⟩ := h.stack k hk
  obtain rfl : o' = o := Option.some.inj (ho'.symm.trans ho)
  exact hpend

theorem State.ScanRight.jt_of_stacked (h : s.ScanRight) {k o : Nat} (hk : k < s.sp)
    (ho : storeGet s.stk k = some o) : storeGet s.jt o = none := by
  obtain ⟨-, -, hjt, -⟩ := h.pending_of_stacked hk ho
  exact hjt

/-- The stack is rising. -/
theorem State.ScanRight.stacked_lt (h : s.ScanRight) {j k o o' : Nat} (hk : k < s.sp) (hj : j < k)
    (ho : storeGet s.stk k = some o) (ho' : storeGet s.stk j = some o') : o' < o := by
  obtain ⟨p, -, p', hlt, hp, hp'⟩ := h.rising k hk j hj
  obtain rfl : p = o := Option.some.inj (hp.symm.trans ho)
  obtain rfl : p' = o' := Option.some.inj (hp'.symm.trans ho')
  exact hlt

/-! ### One more position scanned -/

/-- One more position of the same program, the character `c`, has been scanned, and `sp` has followed it. -/
structure State.Scanned (c : Byte) (s t : State) : Prop extends s.SameProgram t where
  char : storeGet s.prog s.ri = some c
  lt : s.ri < s.len
  ri : t.ri = s.ri + 1
  sp : (t.sp : Int) = s.sp + bracketWeight c

section Scanned
variable {c : Byte} (hstep : s.Scanned c t) (h : s.ScanRight)
include hstep h

/-- After the scan of a position too, `sp` is the balance of what has been scanned (46_jump_resolver.md R158). -/
theorem State.Scanned.balance_eq : balance s.prog (s.ri + 1) = t.sp := by
  rw [balance_succ hstep.char, hstep.sp, h.sp_eq]

theorem State.Scanned.sp_le : t.sp ≤ t.ri := by
  have hsp := hstep.sp
  have hri := hstep.ri
  have hle := h.sp_le
  have hweight := bracketWeight_le_one c
  omega

theorem State.Scanned.balance_nonneg (n : Nat) (hn : n ≤ t.ri) : 0 ≤ balance t.prog n := by
  rw [hstep.ri] at hn
  rw [hstep.prog]
  rcases Nat.le_succ_iff.1 hn with hn | rfl
  · exact h.balance_nonneg n hn
  · rw [hstep.balance_eq h]
    exact Int.natCast_nonneg _

/-- A `[` below the top of the stack stays pending if no entry has been made for it. -/
theorem State.Scanned.pending {k o : Nat} (hpend : s.pending k o) (hk : k < t.sp)
    (hjt : storeGet t.jt o = none) : t.pending k o := by
  obtain ⟨hlt, hopen, -, hbal, habove⟩ := hpend
  have hnew := hstep.balance_eq h
  refine ⟨by rw [hstep.ri]; omega, hstep.openAt_iff.2 hopen, hjt, by rw [hstep.prog]; exact hbal, fun j hj hoj => ?_⟩
  · rw [hstep.prog]
    rw [hstep.ri] at hj
    rcases Nat.le_succ_iff.1 hj with hj | rfl
    · exact habove j hj hoj
    · rw [hnew]
      exact_mod_cast hk

/-- A place of the stack that is kept, with no entry made for its `[`. -/
theorem State.Scanned.stack_kept {k : Nat} (hk : k < s.sp) (hk' : k < t.sp)
    (hstk : storeGet t.stk k = storeGet s.stk k)
    (hjt : ∀ o, storeGet s.stk k = some o → storeGet t.jt o = none) :
    ∃ o, o < t.len ∧ storeGet t.stk k = some o ∧ t.pending k o := by
  obtain ⟨o, hlen, ho, hpend⟩ := h.stack k hk
  exact ⟨o, hstep.len ▸ hlen, hstk ▸ ho, hstep.pending h hpend hk' (hjt o ho)⟩

/-- An entry made before, whose partner's entry stays. -/
theorem State.Scanned.entry_kept {e : Nat × Nat} (he : e ∈ s.jt)
    (hjt : storeGet t.jt e.2 = storeGet s.jt e.2) :
    e.1 < t.ri ∧ e.2 < t.ri ∧ t.bracketAt e.1 ∧ t.entryRight e.1 e.2 := by
  obtain ⟨hfst, hsnd, hbracket, hright⟩ := h.right e he
  rw [hstep.ri]
  exact ⟨hfst.trans (Nat.lt_succ_self _), hsnd.trans (Nat.lt_succ_self _), hstep.bracketAt_iff.2 hbracket,
    hstep.entryRight hright hjt⟩

/-- What is left to show of a scanned position: its effect on the stack and the table. -/
theorem State.Scanned.scanRight
    (stack : ∀ k, k < t.sp → ∃ o, o < t.len ∧ storeGet t.stk k = some o ∧ t.pending k o)
    (rising : ∀ k, k < t.sp → ∀ j, j < k → ∃ o, o < t.len ∧ ∃ o', o' < o ∧
      storeGet t.stk k = some o ∧ storeGet t.stk j = some o')
    (complete : ∀ p, p < t.ri → t.bracketAt p →
      (∃ q, q < t.ri ∧ storeGet t.jt p = some q) ∨ (∃ k, k < t.sp ∧ storeGet t.stk k = some p))
    (right : ∀ e ∈ t.jt, e.1 < t.ri ∧ e.2 < t.ri ∧ t.bracketAt e.1 ∧ t.entryRight e.1 e.2) : t.ScanRight where
  ri_le := by
    rw [hstep.ri, hstep.len]
    exact hstep.lt
  sp_eq := by rw [hstep.ri, hstep.prog, hstep.balance_eq h]
  sp_le := hstep.sp_le h
  balance_nonneg := hstep.balance_nonneg h
  stack := stack
  rising := rising
  complete := complete
  right := right

end Scanned

/-! ### The three ways of scanning a position -/

/-- A character that is no bracket is skipped. -/
theorem skip_scanRight {c : Byte} (h : s.ScanRight) (hlt : s.ri < s.len) (hc : storeGet s.prog s.ri = some c)
    (hopen : c ≠ codeOpen) (hclose : c ≠ codeClose) : (s.setRi (s.ri + 1)).ScanRight := by
  have hstep : s.Scanned c (s.setRi (s.ri + 1)) :=
    ⟨⟨rfl, rfl, rfl⟩, hc, hlt, rfl, by simp [bracketWeight_other hopen hclose]⟩
  refine hstep.scanRight h ?stack h.rising ?complete fun e he => hstep.entry_kept h he rfl
  case stack =>
    exact fun k hk => hstep.stack_kept h hk hk rfl fun o => h.jt_of_stacked hk
  case complete =>
    intro p hp hbracket
    have hne : p ≠ s.ri := by
      rintro rfl
      obtain ⟨-, hget⟩ | ⟨-, hget⟩ := hbracket
      · exact hopen (Option.some.inj (hc.symm.trans hget))
      · exact hclose (Option.some.inj (hc.symm.trans hget))
    have hp : p < s.ri := Nat.lt_of_le_of_ne (Nat.lt_succ_iff.1 hp) hne
    exact (h.complete p hp hbracket).imp_left fun ⟨q, hq, hjt⟩ => ⟨q, Nat.lt_succ_of_lt hq, hjt⟩

/-- The state after a `[` at `ri`. -/
abbrev State.pushed (s : State) : State :=
  ((s.setStk (storePut s.stk s.sp s.ri)).setSp (s.sp + 1)).setRi (s.ri + 1)

theorem pushed_stk_below {k : Nat} (hk : k < s.sp) : storeGet s.pushed.stk k = storeGet s.stk k := by
  show storeGet (storePut s.stk s.sp s.ri) k = _
  rw [storeGet_storePut, if_neg hk.ne]

theorem pushed_stk_top : storeGet s.pushed.stk s.sp = some s.ri := storeGet_storePut_self ..

/-- A `[` at `ri` is pending once it is scanned. -/
theorem pushed_pending_top (h : s.ScanRight) (hopen : s.openAt s.ri) : s.pushed.pending s.sp s.ri := by
  refine ⟨Nat.lt_succ_self _, hopen, h.jt_unscanned le_rfl, h.sp_eq.symm, fun j hj hoj => ?_⟩
  obtain rfl : j = s.ri + 1 := le_antisymm hj hoj
  show (s.sp : Int) < balance s.prog (s.ri + 1)
  rw [balance_succ hopen.2, ← h.sp_eq, bracketWeight_open]
  exact Int.lt_succ _

/-- A `[` is pushed: it lies above all the pending ones. -/
theorem push_scanRight (h : s.ScanRight) (hlt : s.ri < s.len) (hc : storeGet s.prog s.ri = some codeOpen) :
    s.pushed.ScanRight := by
  have hstep : s.Scanned codeOpen s.pushed := ⟨⟨rfl, rfl, rfl⟩, hc, hlt, rfl, rfl⟩
  refine hstep.scanRight h ?stack ?rising ?complete fun e he => hstep.entry_kept h he rfl
  case stack =>
    intro k hk
    rcases Nat.lt_succ_iff_lt_or_eq.1 hk with hbelow | rfl
    · exact hstep.stack_kept h hbelow hk (pushed_stk_below hbelow)
        fun o => h.jt_of_stacked hbelow
    · exact ⟨s.ri, hlt, pushed_stk_top, pushed_pending_top h ⟨hlt, hc⟩⟩
  case rising =>
    intro k hk j hj
    rcases Nat.lt_succ_iff_lt_or_eq.1 hk with hbelow | rfl
    · rw [pushed_stk_below hbelow, pushed_stk_below (hj.trans hbelow)]
      exact h.rising k hbelow j hj
    · obtain ⟨o, -, ho, hscanned, -⟩ := h.stack j hj
      exact ⟨s.ri, hlt, o, hscanned, pushed_stk_top, (pushed_stk_below hj).trans ho⟩
  case complete =>
    intro p hp hbracket
    rcases Nat.lt_succ_iff_lt_or_eq.1 hp with hscanned | rfl
    · obtain ⟨q, hq, hjt⟩ | ⟨k, hk, hstk⟩ := h.complete p hscanned hbracket
      · exact .inl ⟨q, Nat.lt_succ_of_lt hq, hjt⟩
      · exact .inr ⟨k, Nat.lt_succ_of_lt hk, (pushed_stk_below hk).trans hstk⟩
    · exact .inr ⟨s.sp, Nat.lt_succ_self _, pushed_stk_top⟩

/-- The state after a `]` at `ri` with `o` on top of the stack. -/
abbrev State.popped (s : State) (o : Nat) : State :=
  (pairBrackets (s.setSp (s.sp - 1)) o s.ri).setRi (s.ri + 1)

theorem popped_jt (o p : Nat) :
    storeGet (s.popped o).jt p = if p = s.ri then some o else if p = o then some s.ri else storeGet s.jt p :=
  storeGet_pairBrackets (s := s.setSp (s.sp - 1)) o s.ri p

section Pop
variable {o : Nat} (h : s.ScanRight) (hlt : s.ri < s.len) (hc : storeGet s.prog s.ri = some codeClose)
  (hsp : s.sp ≠ 0) (ho : storeGet s.stk (s.sp - 1) = some o)
include h hsp ho

theorem State.ScanRight.top_pending : s.pending (s.sp - 1) o :=
  h.pending_of_stacked (Nat.sub_one_lt hsp) ho

/-- The `[` below the top are not the one that is popped, and so get no entry. -/
theorem popped_jt_of_stacked {k p : Nat} (hk : k < s.sp - 1) (hp : storeGet s.stk k = some p) :
    storeGet (s.popped o).jt p = none := by
  obtain ⟨hscanned, -, hjt, -⟩ := h.pending_of_stacked (hk.trans_le (Nat.sub_le _ _)) hp
  have hne : p < o := h.stacked_lt (Nat.sub_one_lt hsp) hk ho hp
  rw [popped_jt, if_neg hscanned.ne, if_neg hne.ne, hjt]

/-- The partner of an entry made before is neither the `[` popped nor the `]` scanned. -/
theorem popped_jt_of_entry {e : Nat × Nat} (he : e ∈ s.jt) :
    storeGet (s.popped o).jt e.2 = storeGet s.jt e.2 := by
  obtain ⟨-, hsnd, -, hback, -⟩ := h.right e he
  obtain ⟨-, -, hnone, -⟩ := h.top_pending hsp ho
  have hne : e.2 ≠ o := by
    rintro rfl
    simp [hnone] at hback
  rw [popped_jt, if_neg hsnd.ne, if_neg hne]

include hlt hc

/-- A `]` closes the most recent pending `[`. -/
theorem State.ScanRight.matched_top : s.matched o s.ri := by
  obtain ⟨hscanned, hopen, -, hbal, habove⟩ := h.top_pending hsp ho
  refine ⟨hopen, ⟨hlt, hc⟩, hscanned, ?_, fun j hj hoj => hbal ▸ habove j hj hoj⟩
  rw [balance_succ hc, ← h.sp_eq, bracketWeight_close, hbal]
  omega

/-- A `]` pops the most recent pending `[` and joins it with itself. -/
theorem pop_scanRight : (s.popped o).ScanRight := by
  have hstep : s.Scanned codeClose (s.popped o) :=
    ⟨⟨rfl, rfl, rfl⟩, hc, hlt, rfl, by
      show ((s.sp - 1 : Nat) : Int) = s.sp + -1
      omega⟩
  have hkept {k : Nat} (hk : k < s.sp - 1) : k < s.sp := hk.trans_le (Nat.sub_le _ _)
  have hmatched : s.matched o s.ri := h.matched_top hlt hc hsp ho
  have ⟨hopenAt, hcloseAt, hoc, _⟩ := hmatched
  have hclose : storeGet (s.popped o).jt s.ri = some o := by rw [popped_jt, if_pos rfl]
  have hopen : storeGet (s.popped o).jt o = some s.ri := by
    rw [popped_jt, if_neg hoc.ne, if_pos rfl]
  refine hstep.scanRight h ?stack (fun k hk => h.rising k (hkept hk)) ?complete ?right
  case stack =>
    exact fun k hk => hstep.stack_kept h (hkept hk) hk rfl fun p hp => popped_jt_of_stacked h hsp ho hk hp
  case complete =>
    intro p hp hbracket
    rcases Nat.lt_succ_iff_lt_or_eq.1 hp with hscanned | rfl
    · by_cases hpo : p = o
      · exact .inl ⟨s.ri, Nat.lt_succ_self _, hpo ▸ hopen⟩
      · obtain ⟨q, hq, hjt⟩ | ⟨k, hk, hstk⟩ := h.complete p hscanned hbracket
        · exact .inl ⟨q, Nat.lt_succ_of_lt hq, by rw [popped_jt, if_neg hscanned.ne, if_neg hpo, hjt]⟩
        · have hne : k ≠ s.sp - 1 := by
            rintro rfl
            exact hpo (Option.some.inj (hstk.symm.trans ho))
          exact .inr ⟨k, by show k < s.sp - 1; omega, hstk⟩
    · exact .inl ⟨o, Nat.lt_succ_of_lt hoc, hclose⟩
  case right =>
    intro e he
    have hnew : s.ri < s.ri + 1 := Nat.lt_succ_self _
    have hold : o < s.ri + 1 := Nat.lt_succ_of_lt hoc
    obtain rfl | rfl | he := mem_pairBrackets he
    · exact ⟨hnew, hold, .inr hcloseAt, hopen, .inr hmatched⟩
    · exact ⟨hold, hnew, .inl hopenAt, hclose, .inl hmatched⟩
    · exact hstep.entry_kept h he (popped_jt_of_entry h hsp ho he)

end Pop

/-- Every scan step keeps what the pre-pass has established so far (46_jump_resolver.md R155). -/
theorem scanStep_scanRight (h : s.ScanRight) (hstep : scanStep s = .next t) : t.ScanRight := by
  obtain ⟨hlt, hc, -, rfl⟩ | ⟨-, -, -, rfl⟩ | ⟨o, hlt, hc, hsp, ho, rfl⟩ | ⟨c, hlt, hc, hopen, hclose, rfl⟩ :=
    scanStep_next hstep
  · exact push_scanRight h hlt hc
  · exact { h with }
  · exact pop_scanRight h hlt hc hsp ho
  · exact skip_scanRight h hlt hc hopen hclose

end Sys2Proof.Machine
end

section
/-! Every step keeps the invariant of the engine (40_dispatch.md R90): the pre-pass because the scan does and its end
makes the table right, an instruction because it keeps `pc` in the program and `dp` within one cell of the tape, and
the host because it acts on the engine only by a load, a `start` in `Ready` and a reset. -/

namespace Sys2Proof.Machine

variable {s t : State}

/-! ### Reset -/

/-- An engine of any sizes meets the invariant after reset. -/
theorem resetEngine_inv (s : State) (htape : 1 ≤ s.geom.tapeSize) (hprog : 1 ≤ s.geom.progMax) :
    (resetEngine s).Inv where
  tapeSize_pos := htape
  progMax_pos := hprog
  memory := resetEngine_memoryRight s
  tape_in := by simp
  loaded := by simp
  launched := by simp
  pc_le := le_rfl
  fresh := by simp
  dp_in _ := ⟨le_rfl, Int.natCast_pos.2 htape⟩
  dp_out := by simp
  unresolved _ := rfl
  scanning := by simp
  table := by simp [Status.untouched]
  ended := by simp

/-- Settles O36: `State.reset` is what a reset makes of it. -/
theorem resetMeetsTheInvariant : Obligations.ResetMeetsTheInvariant :=
  resetEngine_inv State.reset (by decide) (Nat.succ_pos _)

/-! ### The pre-pass -/

/-- Everything but `STATUS` and what the pre-pass writes is as before. -/
structure State.SameRun (s t : State) : Prop extends s.SameProgram t where
  tape : t.tape = s.tape
  dp : t.dp = s.dp
  pc : t.pc = s.pc
  port : t.port = s.port

/-- Where a step of the pre-pass can lead: on, to the run with its table, or to `UnmatchedBracket`. -/
inductive State.Resolved (t : State) : Prop
  | resolving (hs : t.status = .resolving) (hscan : t.ScanRight)
  | running (hs : t.status = .running) (htable : t.TableRight)
  | unmatched (hs : t.status = .halted (.error .unmatchedBracket))

/-- A step of the pre-pass that leads to one of the three keeps the invariant. -/
theorem State.Inv.of_resolved (h : s.Inv) (hs : s.status = .resolving) (hsame : s.SameRun t)
    (hmem : t.MemoryRight) (hres : t.Resolved) : t.Inv := by
  obtain ⟨⟨hgeom, hprog, hlen⟩, htape, hdp, hpc, hport⟩ := hsame
  have hlaunched : launchable s := h.launched (by simp [hs])
  have honTape : s.onTape s.dp := h.dp_in (by simp [hs])
  have hfresh := h.fresh (by simp [hs, Status.untouched])
  have hoff : t.status ≠ .halted (.error .pointerOutOfBounds) ∧ t.status ≠ .ready ∧ t.status ≠ .halted .ok := by
    obtain ⟨ht, -⟩ | ⟨ht, -⟩ | ht := hres <;> simp [ht]
  obtain ⟨hptr, hready, hok⟩ := hoff
  exact {
    tapeSize_pos := hgeom ▸ h.tapeSize_pos
    progMax_pos := hgeom ▸ h.progMax_pos
    memory := hmem
    tape_in := by rw [htape, hgeom]; exact h.tape_in
    loaded := by rw [hlen, hprog]; exact h.loaded
    launched := fun _ => by rw [launchable, hlen, hgeom]; exact hlaunched
    pc_le := by rw [hpc, hlen]; exact h.pc_le
    fresh := fun _ => by rw [htape, hdp, hpc, hport]; exact hfresh
    dp_in := fun _ => by rw [State.onTape, hdp, hgeom]; exact honTape
    dp_out := fun ht => absurd ht hptr
    unresolved := fun ht => absurd ht hready
    scanning := fun ht => by
      obtain ⟨-, hscan⟩ | ⟨ht', -⟩ | ht' := hres
      · exact hscan
      · simp [ht] at ht'
      · simp [ht] at ht'
    table := fun ht => by
      obtain ⟨ht', -⟩ | ⟨-, htable⟩ | ht' := hres
      · simp [ht', Status.untouched] at ht
      · exact htable
      · simp [ht', Status.untouched] at ht
    ended := fun ht => absurd ht hok }

theorem scanStep_sameRun (h : scanStep s = .next t) : s.SameRun t := by
  obtain ⟨-, -, -, rfl⟩ | ⟨-, -, -, rfl⟩ | ⟨o, -, -, -, -, rfl⟩ | ⟨c, -, -, -, -, rfl⟩ := scanStep_next h <;>
    exact ⟨⟨rfl, rfl, rfl⟩, rfl, rfl, rfl, rfl⟩

/-- A scan step goes on with the scan or halts. -/
theorem scanStep_status (h : scanStep s = .next t) :
    t.status = s.status ∨ t.status = .halted (.error .unmatchedBracket) := by
  obtain ⟨-, -, -, rfl⟩ | ⟨-, -, -, rfl⟩ | ⟨o, -, -, -, -, rfl⟩ | ⟨c, -, -, -, -, rfl⟩ := scanStep_next h
  · exact .inl rfl
  · exact .inr rfl
  · exact .inl rfl
  · exact .inl rfl

theorem scanStep_inv (h : s.Inv) (hs : s.status = .resolving) (hstep : scanStep s = .next t) : t.Inv := by
  refine h.of_resolved hs (scanStep_sameRun hstep) (scanStep_memoryRight h.memory hstep) ?_
  rcases scanStep_status hstep with ht | ht
  · exact .resolving (ht.trans hs) (scanStep_scanRight (h.scanning hs) hstep)
  · exact .unmatched ht

/-- With the whole program scanned and nothing pending, the table is the one a run needs (46_jump_resolver.md R156). -/
theorem State.ScanRight.tableRight (h : s.ScanRight) (hri : s.ri = s.len) (hsp : s.sp = 0) : s.TableRight where
  complete p hp hbracket := by
    obtain ⟨q, hq, hjt⟩ | ⟨k, hk, -⟩ := h.complete p (hri ▸ hp) hbracket
    · exact ⟨q, hri ▸ hq, hjt⟩
    · omega
  right e he := by
    obtain ⟨-, -, hright⟩ := h.right e he
    exact hright

theorem closeStep_inv (h : s.Inv) (hs : s.status = .resolving) (hri : s.ri = s.len) : (closeStep s).Inv := by
  have hmem := closeStep_memoryRight h.memory
  by_cases hsp : s.sp = 0
  · rw [closeStep, if_pos hsp] at hmem ⊢
    exact h.of_resolved hs ⟨⟨rfl, rfl, rfl⟩, rfl, rfl, rfl, rfl⟩ hmem
      (.running rfl { (h.scanning hs).tableRight hri hsp with })
  · rw [closeStep, if_neg hsp] at hmem ⊢
    exact h.of_resolved hs ⟨⟨rfl, rfl, rfl⟩, rfl, rfl, rfl, rfl⟩ hmem (.unmatched rfl)

/-! ### The run -/

/-- A bracket steps on or jumps to the partner. -/
theorem branch_pc {taken : Byte → Bool} (h : branch taken s = .next t) :
    t.pc = s.pc + 1 ∨ storeGet s.jt s.pc = some t.pc := by
  obtain ⟨-, ⟨q, -, hq, rfl⟩ | ⟨-, rfl⟩⟩ := branch_next h
  · exact .inr hq
  · exact .inl rfl

/-- An instruction leaves `pc`, steps on, or jumps to the partner. -/
theorem exec_pc {i : Instr} (h : exec i s = .next t) :
    t.pc = s.pc ∨ t.pc = s.pc + 1 ∨ storeGet s.jt s.pc = some t.pc := by
  obtain ⟨rfl, rfl⟩ | ⟨rfl, rfl⟩ | ⟨d, -, h⟩ | ⟨rfl, h⟩ | ⟨rfl, h⟩ | ⟨rfl, h⟩ | ⟨rfl, h⟩ | ⟨c, rfl, rfl⟩ :=
    exec_next h
  · exact .inr (.inl (finishStep_pc _))
  · exact .inr (.inl (finishStep_pc _))
  · obtain ⟨-, rfl⟩ := addToCell_next h
    exact .inr (.inl rfl)
  · obtain ⟨-, ⟨-, rfl⟩ | ⟨-, rfl⟩⟩ := execOutput_next h
    · exact .inr (.inl rfl)
    · exact .inl rfl
  · obtain ⟨-, rfl⟩ | ⟨b, -, -, rfl⟩ | ⟨-, rfl⟩ | ⟨-, rfl⟩ := execInput_next h
    · exact .inl rfl
    · exact .inr (.inl rfl)
    · exact .inr (.inl (finishStep_pc _))
    · exact .inl rfl
  · exact .inr (branch_pc h)
  · exact .inr (branch_pc h)
  · exact .inr (.inl (finishStep_pc _))

/-- From a position of the program an instruction goes to a position of the program, or to its end. -/
theorem exec_pc_le {i : Instr} (htable : s.TableRight) (hpc : s.pc < s.len) (h : exec i s = .next t) :
    t.pc ≤ s.len := by
  obtain hpc' | hpc' | hjump := exec_pc h
  · omega
  · omega
  · exact (htable.target_lt_len (mem_of_storeGet hjump)).le

/-- An instruction leaves `dp`, or moves it by one and ends in the bounds check. -/
theorem exec_dp {i : Instr} (h : exec i s = .next t) :
    t.dp = s.dp ∨ ∃ d, (d = s.dp + 1 ∨ d = s.dp - 1) ∧ t = finishStep (s.setDp d) := by
  by_cases hi : i ∈ [Instr.right, .left]
  · rcases List.mem_pair.1 hi with rfl | rfl
    · exact .inr ⟨_, .inl rfl, (Host.Outcome.next.inj h).symm⟩
    · exact .inr ⟨_, .inr rfl, (Host.Outcome.next.inj h).symm⟩
  · exact .inl ((exec_writeSet h).dp_eq hi)

/-- An instruction that does not halt with `PointerOutOfBounds` leaves `dp` on the tape. -/
theorem exec_dp_in {i : Instr} (hon : s.onTape s.dp) (h : exec i s = .next t)
    (ht : t.status ≠ .halted (.error .pointerOutOfBounds)) : t.onTape t.dp := by
  obtain hdp | ⟨d, -, rfl⟩ := exec_dp h
  · rw [State.onTape, hdp, (exec_writeSet h).geom]
    exact hon
  · by_contra hoff
    have hoff : ¬ (s.setDp d).onTape (s.setDp d).dp := by simpa [State.onTape] using hoff
    exact ht (by rw [finishStep_of_offTape hoff, raiseError_status])

/-- An instruction that halts with `PointerOutOfBounds` leaves `dp` at a sentinel. -/
theorem exec_dp_out {i : Instr} (hon : s.onTape s.dp) (hs : s.status = .running) (h : exec i s = .next t)
    (ht : t.status = .halted (.error .pointerOutOfBounds)) : t.dp = -1 ∨ t.dp = t.geom.tapeSize := by
  have hgeom := (exec_writeSet h).geom
  have hoff : ¬ t.onTape t.dp := by
    obtain hsame | ⟨hoff, -⟩ | ⟨-, -, hhalt⟩ | ⟨-, -, hhalt⟩ := exec_status h
    · simp [ht, hs] at hsame
    · exact hoff
    · simp [ht] at hhalt
    · simp [ht] at hhalt
  have hnear : t.dp = s.dp ∨ t.dp = s.dp + 1 ∨ t.dp = s.dp - 1 := by
    obtain hdp | ⟨d, hd, rfl⟩ := exec_dp h
    · exact .inl hdp
    · exact .inr (by simpa using hd)
  rw [State.onTape, hgeom] at hoff
  rw [hgeom]
  omega

/-- An instruction of a run goes on with it, or halts with an error other than `UnmatchedBracket`. -/
theorem exec_status_of_running {i : Instr} (hs : s.status = .running) (h : exec i s = .next t) :
    t.status.untouched = false ∧ t.status ≠ .ready ∧ t.status ≠ .resolving ∧ t.status ≠ .halted .ok := by
  obtain ht | ⟨-, ht⟩ | ⟨-, -, ht⟩ | ⟨-, -, ht⟩ := exec_status h <;> simp [ht, hs, Status.untouched]

/-- A write to the tape lists no cell outside it. -/
theorem WriteSet.tape_in {i : Instr} (h : WriteSet i s t) (hs : ∀ c ∈ s.tape, c.1 < s.geom.tapeSize) :
    ∀ c ∈ t.tape, c.1 < t.geom.tapeSize := by
  rw [h.geom]
  obtain htape | ⟨-, hon, v, htape⟩ := h.tape <;> rw [htape]
  · exact hs
  · intro c hc
    rcases mem_tapePut hc with hactive | hc
    · omega
    · exact hs c hc

/-- The table stays right where neither the program nor the table is written. -/
theorem State.TableRight.of_same (h : s.TableRight) (hsame : s.SameProgram t) (hjt : t.jt = s.jt) :
    t.TableRight where
  complete := by
    rw [hsame.len, hjt]
    exact fun p hp hbracket => h.complete p hp (hsame.bracketAt_iff.1 hbracket)
  right e he := by
    obtain ⟨hbracket, hright⟩ := h.right e (hjt ▸ he)
    exact ⟨hsame.bracketAt_iff.2 hbracket, hsame.entryRight hright (by rw [hjt])⟩

theorem exec_inv {i : Instr} (h : s.Inv) (hs : s.status = .running) (hpc : s.pc < s.len)
    (hstep : exec i s = .next t) : t.Inv := by
  have hw : WriteSet i s t := exec_writeSet hstep
  have honTape : s.onTape s.dp := h.dp_in (by simp [hs])
  have htable : s.TableRight := h.table (by simp [hs, Status.untouched])
  have hlaunched : launchable s := h.launched (by simp [hs])
  obtain ⟨htouched, hready, hresolving, hok⟩ := exec_status_of_running hs hstep
  exact {
    tapeSize_pos := hw.geom ▸ h.tapeSize_pos
    progMax_pos := hw.geom ▸ h.progMax_pos
    memory := hw.memoryRight h.memory
    tape_in := hw.tape_in h.tape_in
    loaded := by rw [hw.len, hw.prog]; exact h.loaded
    launched := fun _ => by rw [launchable, hw.len, hw.geom]; exact hlaunched
    pc_le := hw.len ▸ exec_pc_le htable hpc hstep
    fresh := fun ht => by simp [htouched] at ht
    dp_in := exec_dp_in honTape hstep
    dp_out := exec_dp_out honTape hs hstep
    unresolved := fun ht => absurd ht hready
    scanning := fun ht => absurd ht hresolving
    table := fun _ => htable.of_same hw.toSameProgram hw.jt
    ended := fun ht => absurd ht hok }

/-- The termination transition writes `STATUS` alone, at the end of the program. -/
theorem terminate_inv (h : s.Inv) (hs : s.status = .running) (hpc : s.pc = s.len) : (terminate s).Inv :=
  { h with
    memory := { h.memory with }
    launched := fun _ => h.launched (by simp [hs])
    fresh := fun ht => by simp [terminate, Status.untouched] at ht
    dp_in := fun _ => h.dp_in (by simp [hs])
    dp_out := fun ht => by simp [terminate] at ht
    unresolved := fun ht => by simp [terminate] at ht
    scanning := fun ht => by simp [terminate] at ht
    table := fun _ => { h.table (by simp [hs, Status.untouched]) with }
    ended := fun _ => hpc }

theorem engineStep_inv (h : s.Inv) (hstep : engineStep s = .next t) : t.Inv := by
  obtain ⟨-, rfl⟩ | ⟨hs, hri, rfl⟩ | ⟨hs, -, hscan⟩ | ⟨hs, hpc, rfl⟩ | ⟨hs, c, hpc, -, hexec⟩ | ⟨r, -, rfl⟩ :=
    engineStep_next hstep
  · exact h
  · exact closeStep_inv h hs hri
  · exact scanStep_inv h hs hscan
  · exact terminate_inv h hs hpc
  · exact exec_inv h hs hpc hexec
  · exact h

/-! ### The moves of the host -/

/-- A text loaded in `Ready` is there at every position of the program. -/
theorem load_inv (h : s.Inv) (hs : s.status = .ready) (text : List Byte) :
    (s.setProgram (textAt 0 text) text.length).Inv := by
  obtain ⟨-, -, hpc, -, -⟩ := h.fresh (by simp [hs, Status.untouched])
  exact { h with
    memory := { h.memory with prog := textAt_sorted text 0 }
    loaded := fun p hp => by
      have hread := storeGet_textAt text 0 p
      rw [Nat.zero_add] at hread
      rw [State.setProgram_prog, hread, List.getElem?_eq_getElem hp, Option.isSome_some]
    launched := fun ht => absurd hs ht
    pc_le := by
      show s.pc ≤ text.length
      omega
    scanning := fun ht => by simp [hs] at ht
    table := fun ht => by simp [hs, Status.untouched] at ht
    ended := fun ht => by simp [hs] at ht }

/-- Before the first scan step there is nothing to be right. -/
theorem launch_scanRight (hjt : s.jt = []) : (launch s).ScanRight where
  ri_le := Nat.zero_le _
  sp_eq := rfl
  sp_le := le_rfl
  balance_nonneg n hn := by
    obtain rfl : n = 0 := Nat.le_zero.1 hn
    exact le_rfl
  stack k hk := absurd hk (Nat.not_lt_zero k)
  rising k hk := absurd hk (Nat.not_lt_zero k)
  complete p hp := absurd hp (Nat.not_lt_zero p)
  right e he := by simp [launch, hjt] at he

theorem launch_inv (h : s.Inv) (hs : s.status = .ready) (hlaunch : launchable s) : (launch s).Inv :=
  { h with
    memory := { h.memory with }
    launched := fun _ => hlaunch
    fresh := fun _ => h.fresh (by simp [hs, Status.untouched])
    dp_in := fun _ => h.dp_in (by simp [hs])
    dp_out := fun ht => by simp [launch] at ht
    unresolved := fun ht => by simp [launch] at ht
    scanning := fun _ => launch_scanRight (h.unresolved hs)
    table := fun ht => by simp [launch, Status.untouched] at ht
    ended := fun ht => by simp [launch] at ht }

/-- Settles O37: the engine's own step keeps the invariant, and so does each move of the host. -/
theorem everyStepKeepsTheInvariant : Obligations.EveryStepKeepsTheInvariant := by
  intro s t h hstep
  have hdrop : (dropMove s).Inv := dropMove_inv h
  obtain ⟨-, hstep⟩ | ⟨rest, -, hstep⟩ | ⟨text, rest, -, hs, rfl⟩ | ⟨rest, -, ⟨hs, hlaunch, rfl⟩ | ⟨-, rfl⟩⟩ |
    ⟨rest, -, rfl⟩ := systemStep_next hstep
  · exact engineStep_inv h hstep
  · exact engineStep_inv hdrop hstep
  · exact load_inv hdrop hs text
  · exact launch_inv hdrop hs hlaunch
  · exact hdrop
  · exact resetEngine_inv _ h.tapeSize_pos h.progMax_pos

end Sys2Proof.Machine
end

section
/-! The pointer moves (41_pointer_move.md): a move ends on the tape and writes `dp` and `pc` alone, or ends off it and halts;
their pairs and repetitions chain such moves (R103). -/

namespace Sys2Proof.Machine

variable {s t : State}

/-! ### One move -/

/-- A step that moves the pointer to a cell of the tape writes nothing else but `pc`. -/
theorem finishStep_setDp_of_onTape {d : Int} (h : s.onTape d) :
    finishStep (s.setDp d) = { s with dp := d, pc := s.pc + 1 } :=
  finishStep_of_onTape (s := s.setDp d) h

/-- A step that moves the pointer off the tape halts with `PointerOutOfBounds`. -/
theorem finishStep_setDp_of_offTape {d : Int} (h : ¬ s.onTape d) :
    finishStep (s.setDp d) =
      { s with dp := d, pc := s.pc + 1, status := .halted (.error .pointerOutOfBounds) } :=
  finishStep_of_offTape (s := s.setDp d) h

theorem exec_right (s : State) : exec .right s = .next (finishStep (s.setDp (s.dp + 1))) := rfl

theorem exec_left (s : State) : exec .left s = .next (finishStep (s.setDp (s.dp - 1))) := rfl

theorem exec_right_of_onTape {d : Int} (hd : s.dp + 1 = d) (hon : s.onTape d) :
    exec .right s = .next { s with dp := d, pc := s.pc + 1 } := by
  rw [exec_right, hd, finishStep_setDp_of_onTape hon]

theorem exec_left_of_onTape {d : Int} (hd : s.dp - 1 = d) (hon : s.onTape d) :
    exec .left s = .next { s with dp := d, pc := s.pc + 1 } := by
  rw [exec_left, hd, finishStep_setDp_of_onTape hon]

/-- From the last cell `>` leaves the tape at its upper end. -/
theorem exec_right_of_last (h : s.dp + 1 = s.geom.tapeSize) :
    exec .right s = .next
      { s with dp := s.geom.tapeSize, pc := s.pc + 1, status := .halted (.error .pointerOutOfBounds) } := by
  have hoff : ¬ s.onTape s.geom.tapeSize := fun hon => lt_irrefl _ hon.2
  rw [exec_right, h, finishStep_setDp_of_offTape hoff]

/-- From cell 0 `<` leaves the tape at its lower end. -/
theorem exec_left_of_first (h : s.dp = 0) :
    exec .left s = .next
      { s with dp := -1, pc := s.pc + 1, status := .halted (.error .pointerOutOfBounds) } := by
  have hoff : ¬ s.onTape (-1) := fun hon => absurd hon.1 (by decide)
  rw [exec_left, h, zero_sub, finishStep_setDp_of_offTape hoff]

/-- Settles O4: the pointer comes from the tape, so the only cell off it that it can reach is `TAPE_SIZE`. -/
theorem rightMovesUpOrHaltsAtTheEdge : Obligations.RightMovesUpOrHaltsAtTheEdge := by
  refine ⟨decode_encode (i := .right) rfl, fun s ⟨hlo, hhi⟩ => ?_⟩
  split
  · next hlast => exact exec_right_of_last hlast
  · next hinner => exact exec_right_of_onTape rfl ⟨by omega, by omega⟩

/-- Settles O5: the pointer comes from the tape, so the only cell off it that it can reach is -1. -/
theorem leftMovesDownOrHaltsAtTheEdge : Obligations.LeftMovesDownOrHaltsAtTheEdge := by
  refine ⟨decode_encode (i := .left) rfl, fun s ⟨hlo, hhi⟩ => ?_⟩
  split
  · next hfirst => exact exec_left_of_first hfirst
  · next hinner => exact exec_left_of_onTape rfl ⟨by omega, by omega⟩

/-! ### Two moves, and any number of them -/

/-- `>` then `<`, with a cell above the active one. -/
theorem exec_right_then_left (hon : s.onTape s.dp) (h : s.dp + 1 < s.geom.tapeSize) :
    ∃ t, exec .right s = .next t ∧ exec .left t = .next { s with pc := s.pc + 2 } := by
  have hup : s.onTape (s.dp + 1) := ⟨by omega, h⟩
  have hback : s.dp + 1 - 1 = s.dp := by omega
  exact ⟨_, exec_right_of_onTape rfl hup, exec_left_of_onTape hback hon⟩

/-- `<` then `>`, with a cell below the active one. -/
theorem exec_left_then_right (hon : s.onTape s.dp) (h : 0 < s.dp) :
    ∃ t, exec .left s = .next t ∧ exec .right t = .next { s with pc := s.pc + 2 } := by
  have hdown : s.onTape (s.dp - 1) := ⟨by omega, by omega⟩
  have hback : s.dp - 1 + 1 = s.dp := by omega
  exact ⟨_, exec_left_of_onTape rfl hdown, exec_right_of_onTape hback hon⟩

/-- One repetition more is the instruction once more, from where the others lead. -/
theorem execTimes_succ_of_next {i : Instr} {n : Nat} (h : execTimes i n s = .next t) :
    execTimes i (n + 1) s = exec i t := by
  induction n generalizing s with
  | zero =>
    obtain rfl : s = t := Host.Outcome.next.inj h
    rw [execTimes]
    cases exec i s <;> rfl
  | succ n ih =>
    rw [execTimes] at h ⊢
    cases hfirst : exec i s with
    | next u =>
      rw [hfirst] at h
      exact ih h
    | fault f => simp [hfirst] at h
    | refused r => simp [hfirst] at h

/-- Moves up that all end on the tape add up. -/
theorem execTimes_right_of_onTape (hlo : 0 ≤ s.dp) (k : Nat) (h : s.dp + k < s.geom.tapeSize) :
    execTimes .right k s = .next { s with dp := s.dp + k, pc := s.pc + k } := by
  induction k with
  | zero => simp [execTimes]
  | succ k ih =>
    have hbefore : execTimes .right k s = .next { s with dp := s.dp + k, pc := s.pc + k } := ih (by omega)
    have hup : s.dp + k + 1 = s.dp + (k + 1 : Nat) := by omega
    rw [execTimes_succ_of_next hbefore]
    exact exec_right_of_onTape hup ⟨by omega, h⟩

/-- The last of the moves up to `TAPE_SIZE` is the one that leaves the tape. -/
theorem execTimes_right_of_edge (hon : s.onTape s.dp) (k : Nat) (h : s.dp + k = s.geom.tapeSize) :
    execTimes .right k s = .next
      { s with dp := s.geom.tapeSize, pc := s.pc + k, status := .halted (.error .pointerOutOfBounds) } := by
  obtain ⟨hlo, hhi⟩ := hon
  cases k with
  | zero => omega
  | succ k =>
    have hbefore : execTimes .right k s = .next { s with dp := s.dp + k, pc := s.pc + k } :=
      execTimes_right_of_onTape hlo k (by omega)
    have hlast : s.dp + k + 1 = s.geom.tapeSize := by omega
    rw [execTimes_succ_of_next hbefore, exec_right_of_last hlast, add_assoc]

/-- Settles O48: the two pairs of moves, and the moves up to a cell of the tape or to its end. -/
theorem pointerMovesUndoAndAdd : Obligations.PointerMovesUndoAndAdd := fun _ hon =>
  ⟨exec_right_then_left hon, exec_left_then_right hon, execTimes_right_of_onTape hon.1, execTimes_right_of_edge hon⟩

end Sys2Proof.Machine
end

section
/-! Cell arithmetic (42_cell_arith.md): one `+` or `-` writes the wrapped sum to the active cell and moves on; their pairs and
repetitions (R113) chain such steps, and sums wrapped one by one are the whole sum wrapped once. -/

namespace Sys2Proof.Machine

variable {s : State} {v : Byte}

/-! ### Reduction modulo 256 -/

theorem toNat_wrapCell (x : Int) : ((wrapCell x).toNat : Int) = x % 256 := by
  have hpos : 0 ≤ x % 256 := Int.emod_nonneg x (by decide)
  simpa [wrapCell, BitVec.toNat_ofInt] using hpos

theorem wrapCell_toNat (v : Byte) : wrapCell v.toNat = v := by
  simp [wrapCell]

/-- A sum wrapped before the next addend is the whole sum wrapped. -/
theorem wrapCell_toNat_wrapCell_add (x d : Int) : wrapCell ((wrapCell x).toNat + d) = wrapCell (x + d) := by
  refine BitVec.eq_of_toNat_eq (Int.ofNat_inj.1 ?_)
  rw [toNat_wrapCell, toNat_wrapCell, toNat_wrapCell, Int.emod_add_emod]

/-! ### One instruction -/

theorem exec_inc (s : State) : exec .inc s = addToCell 1 s := rfl

theorem exec_dec (s : State) : exec .dec s = addToCell (-1) s := rfl

/-- Where the active cell can be read, `+` and `-` write it and `pc` alone. -/
theorem addToCell_of_memRead (h : memRead s s.dp = .ok v) (d : Int) :
    addToCell d s = .next
      { s with tape := tapePut s.tape s.dp.toNat (wrapCell (v.toNat + d)), pc := s.pc + 1 } := by
  obtain ⟨hon, -⟩ := memRead_ok.1 h
  have hread : readActive s = .ok v := h
  rw [addToCell, hread, onOk_ok, writeActive_of_onTape hon, onOk_ok]
  exact congrArg _ (finishStep_of_onTape (s := s.setTape _) hon)

/-- The cell written reads the value written. -/
theorem memRead_tapePut_self {a : Int} (hon : s.onTape a) (b : Byte) :
    memRead { s with tape := tapePut s.tape a.toNat b } a = .ok b :=
  memRead_ok.2 ⟨hon, by rw [tapeGet_tapePut, if_pos rfl]⟩

/-- The whole effect of `+` (`d = 1`) and `-` (`d = -1`): the next state, the active cell and every other cell (R110). -/
theorem addToCell_effect (h : memRead s s.dp = .ok v) (d : Int) :
    ∃ m b, addToCell d s = .next { s with tape := m, pc := s.pc + 1 } ∧
      memRead { s with tape := m } s.dp = .ok b ∧ (b.toNat : Int) = ((v.toNat : Int) + d) % 256 ∧
      ∀ a, a ≠ s.dp → memRead { s with tape := m } a = memRead s a := by
  obtain ⟨hon, -⟩ := memRead_ok.1 h
  exact ⟨_, _, addToCell_of_memRead h d, memRead_tapePut_self hon _, toNat_wrapCell _,
    fun _ ha => memRead_of_tape_eq_tapePut rfl rfl hon ha⟩

/-- Settles O6: the effect of `+`, its sum read as a natural number. -/
theorem incAddsOneModulo256 : Obligations.IncAddsOneModulo256 := by
  refine ⟨decode_encode (i := .inc) rfl, fun s v h => ?_⟩
  obtain ⟨m, b, hexec, hcell, hb, hothers⟩ := addToCell_effect h 1
  exact ⟨m, b, hexec, hcell, by omega, hothers⟩

/-- Settles O7: the effect of `-`. -/
theorem decSubtractsOneModulo256 : Obligations.DecSubtractsOneModulo256 :=
  ⟨decode_encode (i := .dec) rfl, fun _ _ h => addToCell_effect h (-1)⟩

/-! ### Two instructions, and any number of them -/

/-- One addition more, where the active cell holds a wrapped sum. -/
theorem addToCell_of_wrapped {x : Int} (h : memRead s s.dp = .ok (wrapCell x)) (d : Int) :
    ∃ t, addToCell d s = .next t ∧ t.dp = s.dp ∧ memRead t s.dp = .ok (wrapCell (x + d)) := by
  obtain ⟨hon, -⟩ := memRead_ok.1 h
  refine ⟨_, addToCell_of_memRead h d, rfl, ?_⟩
  rw [wrapCell_toNat_wrapCell_add]
  exact memRead_tapePut_self hon _

/-- An instruction that adds `d` to the active cell adds `k * d` in `k` repetitions. -/
theorem execTimes_of_addToCell {i : Instr} {d : Int} (hi : ∀ s, exec i s = addToCell d s)
    (h : memRead s s.dp = .ok v) (k : Nat) :
    ∃ t, execTimes i k s = .next t ∧ t.dp = s.dp ∧ memRead t s.dp = .ok (wrapCell (v.toNat + k * d)) := by
  induction k with
  | zero => exact ⟨s, rfl, rfl, by simpa [wrapCell_toNat] using h⟩
  | succ k ih =>
    obtain ⟨t, hbefore, hdp, hcell⟩ := ih
    rw [← hdp] at hcell
    obtain ⟨u, hlast, hdp', hcell'⟩ := addToCell_of_wrapped hcell d
    have hsum : (v.toNat : Int) + k * d + d = v.toNat + (k + 1 : Nat) * d := by push_cast; ring
    refine ⟨u, ?_, hdp'.trans hdp, ?_⟩
    · rw [execTimes_succ_of_next hbefore, hi, hlast]
    · rw [← hdp, hcell', hsum]

/-- Two additions that cancel leave the active cell at its value. -/
theorem addToCell_then_addToCell {d e : Int} (h : memRead s s.dp = .ok v) (hde : d + e = 0) :
    ∃ t u, addToCell d s = .next t ∧ addToCell e t = .next u ∧ memRead u s.dp = .ok v := by
  rw [← wrapCell_toNat v] at h
  obtain ⟨t, hfirst, hdp, hcell⟩ := addToCell_of_wrapped h d
  rw [← hdp] at hcell
  obtain ⟨u, hsecond, -, hcell'⟩ := addToCell_of_wrapped hcell e
  have hback : wrapCell (v.toNat + d + e) = v := by rw [add_assoc, hde, add_zero, wrapCell_toNat]
  exact ⟨t, u, hfirst, hsecond, by rw [← hdp, hcell', hback]⟩

/-- Settles O49: the repetitions of `+` and of `-`, with their sums as the statement writes them, and the two pairs. -/
theorem cellArithUndoesAndAdds : Obligations.CellArithUndoesAndAdds := by
  intro s v h
  refine ⟨fun k => ?_, fun k => ?_, addToCell_then_addToCell h rfl, addToCell_then_addToCell h rfl⟩
  · obtain ⟨t, htimes, -, hcell⟩ := execTimes_of_addToCell exec_inc h k
    have hb := toNat_wrapCell (v.toNat + k * 1)
    exact ⟨t, _, htimes, hcell, by omega⟩
  · obtain ⟨t, htimes, -, hcell⟩ := execTimes_of_addToCell exec_dec h k
    have hb := toNat_wrapCell (v.toNat + k * -1)
    exact ⟨t, _, htimes, hcell, by omega⟩

end Sys2Proof.Machine
end

section
/-! The two I/O instructions (43_io.md): each makes one transaction and acts on its answer (R120 to R123); a `,` without an
answer waits, and only its collaborator's sequence moves on (R124). -/

namespace Sys2Proof.Machine

variable {s : State} {v : Byte}

/-! ### `.` -/

/-- Where the active cell can be read, `.` does what the answer to its transaction says. -/
theorem exec_output_of_memRead (h : memRead s s.dp = .ok v) :
    exec .output s = .next (outputEffect v (outAnswer s) (dropOutAnswer s)) := by
  have hread : readActive s = .ok v := h
  rw [exec, execOutput, hread, onOk_ok]

/-- Settles O8: the effect of `.` for each of the two answers. -/
theorem outputEmitsTheCellOrHalts : Obligations.OutputEmitsTheCellOrHalts := by
  refine ⟨decode_encode (i := .output) rfl, fun s v h p hp => ?_⟩
  obtain ⟨hon, -⟩ := memRead_ok.1 h
  subst hp
  refine ⟨fun haccepted => ?_, fun hfailed => ?_⟩
  · rw [exec_output_of_memRead h, haccepted]
    exact congrArg _ (finishStep_of_onTape (s := recordSent v (dropOutAnswer s)) hon)
  · rw [exec_output_of_memRead h, hfailed]
    rfl

/-! ### `,` with an answer -/

/-- On the tape, a byte answered is written to the active cell. -/
theorem inputEffect_byte_of_onTape (hon : s.onTape s.dp) (b : Byte) :
    inputEffect (.byte b) s = .next { s with tape := tapePut s.tape s.dp.toNat b, pc := s.pc + 1 } := by
  rw [inputEffect, writeActive_of_onTape hon, onOk_ok]
  exact congrArg _ (finishStep_of_onTape (s := s.setTape _) hon)

/-- On the tape, end of input only advances `pc`. -/
theorem inputEffect_endOfInput_of_onTape (hon : s.onTape s.dp) :
    inputEffect .endOfInput s = .next { s with pc := s.pc + 1 } :=
  congrArg _ (finishStep_of_onTape hon)

/-- Settles O9: the effect of `,` for each of the three answers, in the state with the answer taken and recorded. -/
theorem inputStoresAByteOrSkipsOrHalts : Obligations.InputStoresAByteOrSkipsOrHalts := by
  refine ⟨decode_encode (i := .input) rfl, fun s a hon ha p hp => ?_⟩
  subst hp
  have hexec : exec .input s = inputEffect a (recordAnswer a (dropInAnswer s)) := execInput_of_answer ha
  rw [hexec]
  have hon' : (recordAnswer a (dropInAnswer s)).onTape (recordAnswer a (dropInAnswer s)).dp := hon
  refine ⟨?byte, ?endOfInput, ?failed⟩
  case byte =>
    rintro b rfl
    exact ⟨_, inputEffect_byte_of_onTape hon' b, memRead_tapePut_self hon b,
      fun _ hx => memRead_of_tape_eq_tapePut rfl rfl hon hx⟩
  case endOfInput =>
    rintro rfl
    exact inputEffect_endOfInput_of_onTape hon'
  case failed =>
    rintro rfl
    rfl

/-! ### `,` without an answer -/

/-- A step at a `,` that has no answer takes the collaborator's entry and nothing else. -/
theorem step_of_unanswered (hs : s.status = .running) (hc : fetch s s.pc = .ok codeInput)
    (hm : s.port.moves = []) (ha : inAnswer s = none) : step s = .next (dropInAnswer s) := by
  have hdecode : decode codeInput = .input := decode_encode (i := .input) rfl
  rw [step_of_no_move hm, engineStep_of_fetch hs hc, hdecode, exec, execInput, ha]

/-- While no answer comes, each step takes one entry more. -/
theorem stepTimes_of_unanswered (hs : s.status = .running) (hc : fetch s s.pc = .ok codeInput)
    (hm : s.port.moves = []) (n : Nat) (ha : ∀ k, k < n → s.comingInput k = none) :
    stepTimes n s = .next { s with port := { s.port with inputs := s.port.inputs.after n } } := by
  induction n generalizing s with
  | zero => rfl
  | succ n ih =>
    have hfirst : step s = .next (dropInAnswer s) := step_of_unanswered hs hc hm (ha 0 n.succ_pos)
    rw [stepTimes, hfirst]
    exact ih (s := dropInAnswer s) hs hc hm fun k hk => ha (k + 1) (Nat.succ_lt_succ hk)

section Always
variable {α : Type} {q : Answers α} {x : α}

/-- With no answer listed, one that stands for ever is the next. -/
theorem Answers.head_of_always (hlisted : q.listed = []) (hrest : q.rest = .always x) (free : Nat → α) :
    q.head free = x := by
  rw [Answers.head, hlisted, hrest]

/-- With no answer listed, taking one that stands for ever leaves the sequence as it is. -/
theorem Answers.tail_of_always (hlisted : q.listed = []) (hrest : q.rest = .always x) : q.tail = q := by
  rw [Answers.tail, hlisted, hrest]

end Always

/-- Settles O23: a blocked step takes one entry of the sequence, and a sequence that says nothing for ever has the same
entries left. -/
theorem unansweredInputIsStuck : Obligations.UnansweredInputIsStuck := by
  intro s hs _ hc hm
  refine ⟨stepTimes_of_unanswered hs hc hm, fun hlisted hrest => stepTimes_of_step_eq_self ?_⟩
  calc step s
      = .next (dropInAnswer s) := step_of_unanswered hs hc hm (Answers.head_of_always hlisted hrest _)
    _ = .next s := by rw [dropInAnswer, Answers.tail_of_always hlisted hrest]; rfl

end Sys2Proof.Machine
end

section
/-! The two brackets (44_loop.md): a bracket that takes its jump goes to the entry of the table at its own position
(R131, R132). The table of a run joins it there with its partner, and the partner's test of the same cell lets the next
step pass (R133). -/

namespace Sys2Proof.Machine

variable {s t u : State} {v : Byte} {q : Nat}

/-! ### One bracket -/

theorem cellIsZero_iff : cellIsZero v = true ↔ v = 0 := beq_iff_eq

theorem not_cellIsZero_iff : (!cellIsZero v) = true ↔ v ≠ 0 := by
  rw [Bool.not_eq_true', ← Bool.not_eq_true, cellIsZero_iff]

section Branch
variable {taken : Byte → Bool} (h : memRead s s.dp = .ok v)
include h

/-- A jump taken goes to the table's entry and writes nothing but `pc`. -/
theorem branch_of_taken (ht : taken v = true) (hq : storeGet s.jt s.pc = some q) :
    branch taken s = .next { s with pc := q } := by
  obtain ⟨hon, -⟩ := memRead_ok.1 h
  have hread : readActive s = .ok v := h
  have hentry : partner s = .ok q := readJump_ok.2 hq
  rw [branch, hread, onOk_ok, if_pos ht, takeJump, hentry, onOk_ok]
  exact congrArg _ (checkBounds_of_onTape (s := s.setPc q) hon)

/-- A jump not taken steps on. -/
theorem branch_of_not_taken (ht : ¬ taken v = true) : branch taken s = .next { s with pc := s.pc + 1 } := by
  obtain ⟨hon, -⟩ := memRead_ok.1 h
  have hread : readActive s = .ok v := h
  rw [branch, hread, onOk_ok, if_neg ht]
  exact congrArg _ (finishStep_of_onTape hon)

theorem exec_openLoop_of_zero (hv : v = 0) (hq : storeGet s.jt s.pc = some q) :
    exec .openLoop s = .next { s with pc := q } :=
  branch_of_taken h (cellIsZero_iff.2 hv) hq

theorem exec_openLoop_of_ne_zero (hv : v ≠ 0) : exec .openLoop s = .next { s with pc := s.pc + 1 } :=
  branch_of_not_taken h (mt cellIsZero_iff.1 hv)

theorem exec_closeLoop_of_ne_zero (hv : v ≠ 0) (hq : storeGet s.jt s.pc = some q) :
    exec .closeLoop s = .next { s with pc := q } :=
  branch_of_taken (taken := fun w => !cellIsZero w) h (not_cellIsZero_iff.2 hv) hq

theorem exec_closeLoop_of_zero (hv : v = 0) : exec .closeLoop s = .next { s with pc := s.pc + 1 } :=
  branch_of_not_taken (taken := fun w => !cellIsZero w) h fun ht => not_cellIsZero_iff.1 ht hv

end Branch

/-- Settles O10: the test of `[`, passed and failed. -/
theorem openJumpsOnZero : Obligations.OpenJumpsOnZero :=
  ⟨decode_encode (i := .openLoop) rfl, fun _ _ h =>
    ⟨fun _ hv hq => exec_openLoop_of_zero h hv hq, exec_openLoop_of_ne_zero h⟩⟩

/-- Settles O11: the test of `]`, passed and failed. -/
theorem closeJumpsOnNonZero : Obligations.CloseJumpsOnNonZero :=
  ⟨decode_encode (i := .closeLoop) rfl, fun _ _ h =>
    ⟨fun _ hv hq => exec_closeLoop_of_ne_zero h hv hq, exec_closeLoop_of_zero h⟩⟩

/-! ### The table's entry at a bracket -/

/-- No position holds both brackets. -/
theorem State.not_openAt_of_closeAt {p : Nat} (hc : s.closeAt p) : ¬ s.openAt p := by
  intro ho
  exact absurd (ho.2.symm.trans hc.2) (by decide)

/-- The table has an entry at each bracket, and one end of the pair is that bracket. -/
theorem State.TableRight.entry_at (h : s.TableRight) {p : Nat} (hp : s.bracketAt p) :
    ∃ q, storeGet s.jt p = some q ∧ (s.matched p q ∨ s.matched q p) := by
  have hlt : p < s.len := hp.elim And.left And.left
  obtain ⟨q, -, hq⟩ := h.complete p hlt hp
  obtain ⟨-, -, hmatched⟩ := h.right (p, q) (mem_of_storeGet hq)
  exact ⟨q, hq, hmatched⟩

theorem State.TableRight.entry_at_open (h : s.TableRight) {p : Nat} (hp : s.openAt p) :
    ∃ c, storeGet s.jt p = some c ∧ s.matched p c := by
  obtain ⟨c, hc, hforward | ⟨-, hclose, -⟩⟩ := h.entry_at (.inl hp)
  · exact ⟨c, hc, hforward⟩
  · exact absurd hp (State.not_openAt_of_closeAt hclose)

theorem State.TableRight.entry_at_close (h : s.TableRight) {p : Nat} (hp : s.closeAt p) :
    ∃ o, storeGet s.jt p = some o ∧ s.matched o p := by
  obtain ⟨o, ho, ⟨hopen, -⟩ | hbackward⟩ := h.entry_at (.inr hp)
  · exact absurd hopen (State.not_openAt_of_closeAt hp)
  · exact ⟨o, ho, hbackward⟩

/-! ### A jump and the step after it -/

theorem step_at_open (hs : s.status = .running) (hm : s.port.moves = []) (h : s.openAt s.pc) :
    step s = exec .openLoop s := by
  have hdecode : decode codeOpen = .openLoop := decode_encode (i := .openLoop) rfl
  rw [step_of_no_move hm, engineStep_of_fetch hs (fetch_ok.2 h), hdecode]

theorem step_at_close (hs : s.status = .running) (hm : s.port.moves = []) (h : s.closeAt s.pc) :
    step s = exec .closeLoop s := by
  have hdecode : decode codeClose = .closeLoop := decode_encode (i := .closeLoop) rfl
  rw [step_of_no_move hm, engineStep_of_fetch hs (fetch_ok.2 h), hdecode]

theorem stepTimes_two_of_next (hfirst : step s = .next t) (hsecond : step t = .next u) :
    stepTimes 2 s = .next u := by
  simp only [stepTimes, hfirst, hsecond]

/-- Settles O50: the jump lands on the matched partner, whose test of the same cell fails. -/
theorem takenBracketsLandOnTheirPartner : Obligations.TakenBracketsLandOnTheirPartner := by
  intro s v hinv hs hm hread
  have htable : s.TableRight := hinv.table (by simp [hs, Status.untouched])
  refine ⟨fun hopen hv => ?forward, fun hclose hv => ?backward⟩
  case forward =>
    obtain ⟨c, hc, hmatched⟩ := htable.entry_at_open hopen
    have ⟨_, hclose, _⟩ := hmatched
    have hjump : step s = .next { s with pc := c } :=
      (step_at_open hs hm hopen).trans (exec_openLoop_of_zero hread hv hc)
    have hpass : step { s with pc := c } = .next { s with pc := c + 1 } :=
      (step_at_close (s := { s with pc := c }) hs hm hclose).trans (exec_closeLoop_of_zero hread hv)
    exact ⟨c, hmatched, hjump, stepTimes_two_of_next hjump hpass⟩
  case backward =>
    obtain ⟨o, ho, hmatched⟩ := htable.entry_at_close hclose
    have ⟨hopen, _⟩ := hmatched
    have hjump : step s = .next { s with pc := o } :=
      (step_at_close hs hm hclose).trans (exec_closeLoop_of_ne_zero hread hv ho)
    have hpass : step { s with pc := o } = .next { s with pc := o + 1 } :=
      (step_at_open (s := { s with pc := o }) hs hm hopen).trans (exec_openLoop_of_ne_zero hread hv)
    exact ⟨o, hmatched, hjump, stepTimes_two_of_next hjump hpass⟩

end Sys2Proof.Machine
end

section
/-! The no-operation space (45_nop.md R140): what is none of the eight codes decodes to `NOP`, and a `NOP` only steps on. -/

namespace Sys2Proof.Machine

/-- No row of the opcode map is for a character other than the eight codes (30_encoding.md R62). -/
theorem mem_codes_of_isInstructionCode {c : Byte} (h : isInstructionCode c = true) :
    c ∈ [0x2B#8, 0x2C#8, 0x2D#8, 0x2E#8, 0x3C#8, 0x3E#8, 0x5B#8, 0x5D#8] := by
  have hrows : ∀ row ∈ opcodeTable, row.1 ∈ [0x2B#8, 0x2C#8, 0x2D#8, 0x2E#8, 0x3C#8, 0x3E#8, 0x5B#8, 0x5D#8] := by
    decide
  obtain ⟨row, hrow, hcode⟩ := List.any_eq_true.1 h
  exact beq_iff_eq.1 hcode ▸ hrows row hrow

/-- With `dp` on the tape the bounds check passes, so `NOP` writes `pc` alone. -/
theorem exec_nop_of_onTape {s : State} (hon : s.onTape s.dp) (c : Byte) :
    exec (.nop c) s = .next { s with pc := s.pc + 1 } :=
  congrArg _ (finishStep_of_onTape hon)

/-- Settles O12: a character outside the opcode map is a `NOP`, and `NOP` is the end of a step that stays on the tape. -/
theorem nopOnlyAdvances : Obligations.NopOnlyAdvances :=
  ⟨fun _ hc => decode_of_not_isInstructionCode (Bool.eq_false_of_not_eq_true (mt mem_codes_of_isInstructionCode hc)),
    fun c _ hon => exec_nop_of_onTape hon c⟩

end Sys2Proof.Machine
end

section
/-! The resolver's steps (46_jump_resolver.md R152 to R154): what `start` makes of the phase, what a scan step makes of the
character at `ri`, and the verdict of the closing step. -/

namespace Sys2Proof.Machine

variable {s : State}

/-! ### `start` -/

theorem hostStart_of_ready_of_launchable (hs : s.status = .ready) (hl : launchable s) :
    hostStart s = .next (launch s) := by
  rw [hostStart, hs]
  exact if_pos hl

theorem hostStart_of_ready_of_not_launchable (hs : s.status = .ready) (hl : ¬ launchable s) :
    hostStart s = .refused .launchOutsideContract := by
  rw [hostStart, hs]
  exact if_neg hl

theorem hostStart_of_not_ready (hs : s.status ≠ .ready) : hostStart s = .next s := by
  unfold hostStart
  split
  case h_1 hready => exact absurd hready hs
  all_goals rfl

/-- Settles O26: the step is `start` after the host's move has been taken. -/
theorem startIsHonouredOnlyInReady : Obligations.StartIsHonouredOnlyInReady := by
  intro s rest hm
  rw [step_of_start hm]
  refine ⟨fun hs hpos hcap => ?launched, fun hs hbad => ?refused, fun hs => ?ignored⟩
  case launched =>
    rw [hostStart_of_ready_of_launchable (s := dropMove s) hs ⟨hpos, hcap⟩, dropMove_of_moves hm]
    rfl
  case refused =>
    refine hostStart_of_ready_of_not_launchable (s := dropMove s) hs fun ⟨hpos, hcap⟩ => ?_
    rw [dropMove_len] at hpos hcap
    rw [dropMove_geom] at hcap
    omega
  case ignored =>
    rw [hostStart_of_not_ready (s := dropMove s) hs, dropMove_of_moves hm]

/-! ### The scan step -/

theorem engineStep_of_resolving (hs : s.status = .resolving) : engineStep s = resolverStep s := by
  rw [engineStep, hs]

/-- With positions left to scan, the step of the pre-pass is a scan step. -/
theorem step_of_unscanned (hs : s.status = .resolving) (hm : s.port.moves = []) (hlt : s.ri < s.len) :
    step s = scanStep s := by
  rw [step_of_no_move hm, engineStep_of_resolving hs, resolverStep, if_neg hlt.ne]

/-- With the whole program scanned, it is the closing step. -/
theorem step_of_scanned (hs : s.status = .resolving) (hm : s.port.moves = []) (hri : s.ri = s.len) :
    step s = .next (closeStep s) := by
  rw [step_of_no_move hm, engineStep_of_resolving hs, resolverStep, if_pos hri]

theorem scanStep_of_open (hc : fetch s s.ri = .ok codeOpen) : scanStep s = scanOpen s := by
  rw [scanStep, hc, onOk_ok, if_pos rfl]

theorem scanStep_of_close (hc : fetch s s.ri = .ok codeClose) : scanStep s = scanClose s := by
  have hne : codeClose ≠ codeOpen := by decide
  rw [scanStep, hc, onOk_ok, if_neg hne, if_pos rfl]

theorem scanStep_of_other {c : Byte} (hc : fetch s s.ri = .ok c) (hopen : c ≠ codeOpen) (hclose : c ≠ codeClose) :
    scanStep s = .next (s.setRi (s.ri + 1)) := by
  rw [scanStep, hc, onOk_ok, if_neg hopen, if_neg hclose]

theorem scanOpen_of_room (h : s.sp < s.geom.progMax) : scanOpen s = .next s.pushed := by
  rw [scanOpen, pushStack_ok.2 ⟨h, rfl⟩, onOk_ok]

theorem scanOpen_of_full (h : s.geom.progMax ≤ s.sp) : scanOpen s = .fault (.stackOutOfRange s.sp) := by
  rw [scanOpen, pushStack, if_neg h.not_gt, onOk_error]

theorem scanClose_of_empty (h : s.sp = 0) : scanClose s = .next (raiseError .unmatchedBracket s) := by
  rw [scanClose, if_pos h]

theorem scanClose_of_top {o : Nat} (h : s.sp ≠ 0) (ho : storeGet s.stk (s.sp - 1) = some o) :
    scanClose s = .next (s.popped o) := by
  rw [scanClose, if_neg h, readStack_ok.2 ho, onOk_ok]

/-- Settles O31: the scan step on each kind of character, `[` and `]` by what the stack holds. -/
theorem scanStepPairsBrackets : Obligations.ScanStepPairsBrackets := by
  intro s c hs hlt hc hm
  rw [step_of_unscanned hs hm hlt]
  refine ⟨?push, ?full, ?unmatched, ?pop, fun hopen hclose => scanStep_of_other hc hopen hclose⟩
  case push =>
    rintro rfl hroom
    exact ⟨storePut s.stk s.sp s.ri, (scanStep_of_open hc).trans (scanOpen_of_room hroom),
      fun k => storeGet_storePut s.stk s.sp k s.ri⟩
  case full =>
    rintro rfl hfull
    exact (scanStep_of_open hc).trans (scanOpen_of_full hfull)
  case unmatched =>
    rintro rfl hempty
    exact (scanStep_of_close hc).trans (scanClose_of_empty hempty)
  case pop =>
    rintro o rfl hsp ho
    exact ⟨(s.popped o).jt, (scanStep_of_close hc).trans (scanClose_of_top hsp ho), popped_jt o⟩

/-! ### The closing step -/

theorem closeStep_of_empty (h : s.sp = 0) : closeStep s = s.setStatus .running := if_pos h

theorem closeStep_of_pending (h : s.sp ≠ 0) : closeStep s = raiseError .unmatchedBracket s := if_neg h

/-- Settles O32: the two verdicts of the closing step. -/
theorem closingStepGivesTheVerdict : Obligations.ClosingStepGivesTheVerdict := by
  intro s hs hri hm
  rw [step_of_scanned hs hm hri]
  exact ⟨fun hsp => congrArg _ (closeStep_of_empty hsp), fun hsp => congrArg _ (closeStep_of_pending hsp)⟩

/-! ### The invariant of the scan -/

/-- Settles O33: the scan keeps its invariant, whether or not the table is sorted. -/
theorem scanKeepsItsInvariant : Obligations.ScanKeepsItsInvariant :=
  fun _ _ h _ hstep => scanStep_scanRight h hstep

end Sys2Proof.Machine
end

section
/-! The pairs of a run (46_jump_resolver.md R156): what it means for two brackets to be matched, read from either end, and
why two matched pairs do not cross. -/

namespace Sys2Proof.Machine

variable {s : State}

/-! ### Matched pairs -/

section Matched
variable {o c o₁ c₁ o₂ c₂ : Nat}

/-- No position before `c` closes the `[` at `o` (R156 (a)). -/
theorem State.matched.least (h : s.matched o c) {c' : Nat} (hlo : o < c') (hhi : c' < c) :
    balance s.prog (c' + 1) ≠ balance s.prog o := by
  obtain ⟨-, -, -, -, habove⟩ := h
  exact (habove (c' + 1) hhi (Nat.lt_succ_of_lt hlo)).ne'

/-- No position after `o` opens for the `]` at `c` (R156 (b)). -/
theorem State.matched.greatest (h : s.matched o c) {o' : Nat} (hlo : o < o') (hhi : o' < c) :
    balance s.prog (c + 1) ≠ balance s.prog o' := by
  obtain ⟨-, -, -, hbal, habove⟩ := h
  exact hbal ▸ (habove o' hhi.le hlo).ne

/-- Two pairs lie apart or one in the other (R156 (e)): the balance after `c₁` is below every balance inside the second
pair, so `c₁` does not lie there. -/
theorem State.matched.nested (h₁ : s.matched o₁ c₁) (h₂ : s.matched o₂ c₂) (ho : o₁ < o₂) :
    c₁ < o₂ ∨ c₂ < c₁ := by
  obtain ⟨-, -, -, hbal₁, habove₁⟩ := h₁
  obtain ⟨-, -, -, hbal₂, habove₂⟩ := h₂
  by_contra hcross
  obtain ⟨hinside, hpast⟩ : o₂ ≤ c₁ ∧ c₁ ≤ c₂ := by omega
  have hlower : balance s.prog o₁ < balance s.prog o₂ := habove₁ o₂ hinside ho
  rcases Nat.lt_or_eq_of_le hpast with hlt | rfl
  · have hupper := habove₂ (c₁ + 1) hlt (Nat.lt_succ_of_le hinside)
    omega
  · omega

end Matched

/-! ### The table -/

section Table
variable (h : s.TableRight)
include h

theorem State.TableRight.symmetric {p q : Nat} (hq : storeGet s.jt p = some q) : storeGet s.jt q = some p := by
  obtain ⟨-, hback, -⟩ := h.right (p, q) (mem_of_storeGet hq)
  exact hback

theorem State.TableRight.injective {p p' q : Nat} (hp : storeGet s.jt p = some q) (hp' : storeGet s.jt p' = some q) :
    p = p' :=
  Option.some.inj ((h.symmetric hp).symm.trans (h.symmetric hp'))

theorem State.TableRight.bracketAt_of_entry {p q : Nat} (hq : storeGet s.jt p = some q) : s.bracketAt p := by
  obtain ⟨hbracket, -⟩ := h.right (p, q) (mem_of_storeGet hq)
  exact hbracket

/-- The entry at a `[` is its partner. -/
theorem State.TableRight.matched_of_entry {o c : Nat} (ho : s.openAt o) (hc : storeGet s.jt o = some c) :
    s.matched o c := by
  obtain ⟨c', hc', hmatched⟩ := h.entry_at_open ho
  obtain rfl : c' = c := Option.some.inj (hc'.symm.trans hc)
  exact hmatched

end Table

/-- Settles O34: the table of a run is right, and what it joins is matched. -/
theorem jumpTableHoldsThePairs : Obligations.JumpTableHoldsThePairs := by
  intro s hinv hs
  have h : s.TableRight := hinv.table (by simp [hs, Status.untouched])
  refine ⟨fun p hp => ?partnerOfOpen, fun p hp => ?partnerOfClose, fun _ _ => h.symmetric,
    fun _ _ _ => h.injective, ?nested, fun _ _ => h.bracketAt_of_entry⟩
  case partnerOfOpen =>
    obtain ⟨c, hentry, hmatched⟩ := h.entry_at_open hp
    have ⟨_, hclose, hlt, hbal, _⟩ := hmatched
    exact ⟨c, hentry, hlt, hclose, hbal, fun _ => hmatched.least⟩
  case partnerOfClose =>
    obtain ⟨o, hentry, hmatched⟩ := h.entry_at_close hp
    have ⟨hopen, _, hlt, hbal, _⟩ := hmatched
    exact ⟨o, hentry, hlt, hopen, hbal, fun _ => hmatched.greatest⟩
  case nested =>
    intro o₁ c₁ o₂ c₂ ho₁ ho₂ hc₁ hc₂ hlt
    exact (h.matched_of_entry ho₁ hc₁).nested (h.matched_of_entry ho₂ hc₂) hlt

end Sys2Proof.Machine
end

section
/-! The pre-pass as a whole (46_jump_resolver.md R157, R158, R160): as many scan steps as there are positions and the closing
step, or an earlier halt at a `]` that takes the balance below 0. -/

namespace Sys2Proof.Machine

variable {s t u : State}

/-! ### The result of the pre-pass -/

/-- The result of the pre-pass over the program of `s`: the phase that its brackets call for, the run not begun. -/
structure State.PrePassTo (s t : State) : Prop extends s.SameRun t where
  running : s.balanced → t.status = .running
  unmatched : ¬ s.balanced → t.status = .halted (.error .unmatchedBracket)

theorem State.SameProgram.balanced_iff (h : s.SameProgram t) : t.balanced ↔ s.balanced := by
  rw [State.balanced, State.balanced, h.len, h.prog]

theorem State.SameRun.trans (hst : s.SameRun t) (htu : t.SameRun u) : s.SameRun u :=
  ⟨⟨htu.geom.trans hst.geom, htu.prog.trans hst.prog, htu.len.trans hst.len⟩, htu.tape.trans hst.tape,
    htu.dp.trans hst.dp, htu.pc.trans hst.pc, htu.port.trans hst.port⟩

/-- The steps of the pre-pass before do not change its result. -/
theorem State.PrePassTo.after (htu : t.PrePassTo u) (hst : s.SameRun t) : s.PrePassTo u where
  toSameRun := hst.trans htu.toSameRun
  running := fun hbal => htu.running (hst.balanced_iff.2 hbal)
  unmatched := fun hbal => htu.unmatched (mt hst.balanced_iff.1 hbal)

/-! ### The two ways it ends -/

/-- A scanned program is balanced exactly if nothing is pending (R158). -/
theorem State.ScanRight.balanced_iff (h : s.ScanRight) (hri : s.ri = s.len) : s.balanced ↔ s.sp = 0 := by
  have hsp := h.sp_eq
  rw [hri] at hsp
  constructor
  · rintro ⟨-, hzero⟩
    omega
  · intro hzero
    exact ⟨hri ▸ h.balance_nonneg, by omega⟩

theorem closeStep_prePassTo (h : s.ScanRight) (hri : s.ri = s.len) : s.PrePassTo (closeStep s) := by
  have hiff := h.balanced_iff hri
  by_cases hsp : s.sp = 0
  · rw [closeStep_of_empty hsp]
    exact ⟨⟨⟨rfl, rfl, rfl⟩, rfl, rfl, rfl, rfl⟩, fun _ => rfl, fun hbal => absurd (hiff.2 hsp) hbal⟩
  · rw [closeStep_of_pending hsp]
    exact ⟨⟨⟨rfl, rfl, rfl⟩, rfl, rfl, rfl, rfl⟩, fun hbal => absurd (hiff.1 hbal) hsp, fun _ => rfl⟩

/-- A `]` with nothing pending takes the balance below 0 (R158). -/
theorem State.ScanRight.not_balanced_of_closeAt (h : s.ScanRight) (hclose : s.closeAt s.ri) (hsp : s.sp = 0) :
    ¬ s.balanced := by
  rintro ⟨hnonneg, -⟩
  have hafter := hnonneg (s.ri + 1) hclose.1
  rw [balance_succ hclose.2, ← h.sp_eq, hsp, bracketWeight_close] at hafter
  exact absurd hafter (by decide)

/-- A scan step advances, or halts at a `]` with nothing pending. -/
theorem scanStep_advances_or_halts (h : scanStep s = .next t) :
    (t.status = s.status ∧ t.ri = s.ri + 1) ∨
      (s.closeAt s.ri ∧ s.sp = 0 ∧ t.status = .halted (.error .unmatchedBracket)) := by
  obtain ⟨-, -, -, rfl⟩ | ⟨hlt, hc, hsp, rfl⟩ | ⟨o, -, -, -, -, rfl⟩ | ⟨c, -, -, -, -, rfl⟩ := scanStep_next h
  · exact .inl ⟨rfl, rfl⟩
  · exact .inr ⟨⟨hlt, hc⟩, hsp, rfl⟩
  · exact .inl ⟨rfl, rfl⟩
  · exact .inl ⟨rfl, rfl⟩

/-! ### The steps together -/

theorem stepTimes_succ_of_step {n : Nat} (h : step s = .next t) : stepTimes (n + 1) s = stepTimes n t := by
  rw [stepTimes, h]

theorem step_of_halted {r : RunResult} (hs : s.status = .halted r) (hm : s.port.moves = []) : step s = .next s := by
  rw [step_of_no_move hm, engineStep_of_halted hs]

/-- With `n` positions left to scan, `n + 1` steps give the result of the pre-pass. -/
theorem stepTimes_prePass (n : Nat) (h : s.Inv) (hs : s.status = .resolving) (hm : s.port.moves = [])
    (hleft : s.ri + n = s.len) : ∃ t, stepTimes (n + 1) s = .next t ∧ s.PrePassTo t := by
  induction n generalizing s with
  | zero =>
    exact ⟨_, stepTimes_succ_of_step (step_of_scanned hs hm hleft), closeStep_prePassTo (h.scanning hs) hleft⟩
  | succ n ih =>
    have hlt : s.ri < s.len := by omega
    have hstep : step s = scanStep s := step_of_unscanned hs hm hlt
    obtain ⟨t, ht⟩ : ∃ t, engineStep s = .next t := h.engineStep_answers
    rw [← step_of_no_move hm, hstep] at ht
    rw [stepTimes_succ_of_step (hstep.trans ht)]
    have hsame : s.SameRun t := scanStep_sameRun ht
    have hmt : t.port.moves = [] := by rw [hsame.port, hm]
    obtain ⟨hts, htri⟩ | ⟨hclose, hsp, hhalt⟩ := scanStep_advances_or_halts ht
    · have htinv : t.Inv := scanStep_inv h hs ht
      have htleft : t.ri + n = t.len := by
        rw [htri, hsame.len]
        omega
      obtain ⟨u, hu, hresult⟩ := ih htinv (hts.trans hs) hmt htleft
      exact ⟨u, hu, hresult.after hsame⟩
    · have hstays : stepTimes (n + 1) t = .next t := stepTimes_of_step_eq_self (step_of_halted hhalt hmt) (n + 1)
      have hbad : ¬ s.balanced := (h.scanning hs).not_balanced_of_closeAt hclose hsp
      exact ⟨t, hstays, hsame, fun hbal => absurd hbal hbad, fun _ => hhalt⟩

/-- Settles O35: `start` launches the pre-pass, with the whole program left to scan. -/
theorem startResolvesEveryProgram : Obligations.StartResolvesEveryProgram := by
  intro s hinv hs hlaunch hm
  have hstart : step s = .next (launch (dropMove s)) :=
    (step_of_start hm).trans (hostStart_of_ready_of_launchable (s := dropMove s) hs hlaunch)
  have hlaunched : (launch (dropMove s)).Inv := launch_inv (dropMove_inv hinv) hs hlaunch
  have hmoves : (launch (dropMove s)).port.moves = [] := congrArg List.tail hm
  obtain ⟨t, ht, hresult⟩ := stepTimes_prePass s.len hlaunched rfl hmoves (Nat.zero_add _)
  obtain ⟨htape, hdp, hpc, -, -⟩ := hinv.fresh (by simp [hs, Status.untouched])
  refine ⟨t, (stepTimes_succ_of_step hstart).trans ht, hresult.running, hresult.unmatched, hresult.prog, hresult.len,
    hresult.tape.trans htape, hresult.dp.trans hdp, hresult.pc.trans hpc, hresult.port.trans ?_⟩
  exact congrArg State.port (dropMove_of_moves hm)

end Sys2Proof.Machine
end

section
/-! The host's interface (47_host_interface.md): a load and a reset act after the move has been taken (R171, R174), the
answers of `ListHost` are a list and then one answer for ever (R183), and the output grows at an accepted `.` alone
(R182). -/

namespace Sys2Proof.Machine

variable {s t : State}

/-! ### Load and reset -/

theorem hostLoad_of_not_ready (hs : s.status ≠ .ready) (text : List Byte) :
    hostLoad text s = .refused .programInterfaceClosed := by
  unfold hostLoad
  split
  case h_1 hready => exact absurd hready hs
  all_goals rfl

theorem step_of_load {text : List Byte} {rest : List HostMove} (hm : s.port.moves = .load text :: rest) :
    step s = hostLoad text (dropMove s) := by
  rw [step, systemStep, hm]

theorem step_of_reset {rest : List HostMove} (hm : s.port.moves = .reset :: rest) :
    step s = .next (resetEngine (dropMove s)) := by
  rw [step, systemStep, hm, hostReset]

/-- Settles O27: the step is the load after the host's move has been taken. -/
theorem loadWritesTheTextInReady : Obligations.LoadWritesTheTextInReady := by
  intro s text rest hm
  refine ⟨fun hs => ⟨textAt 0 text, ?_, ?_⟩, fun hs => ?_⟩
  · rw [step_load_of_ready hs hm, dropMove_of_moves hm]
    rfl
  · exact fun p c hc => fetch_setProgram_textAt (s := s) hc
  · rw [step_of_load hm]
    exact hostLoad_of_not_ready (s := dropMove s) hs text

/-- Settles O24: the step is the reset after the host's move has been taken, and an unlisted cell reads 0. -/
theorem resetFromAnyPhase : Obligations.ResetFromAnyPhase := by
  intro s rest hm
  have hcode : statusBits .ready = 0 := by decide
  refine ⟨_, step_of_reset hm, fun a hon => memRead_ok.2 ⟨hon, rfl⟩, rfl, rfl, rfl, hcode, rfl, ?_⟩
  rw [dropMove_of_moves hm]
  rfl

/-! ### The answers of `ListHost` -/

/-- A list of answers and then one for ever: the `k`-th coming answer. -/
theorem Answers.head_after_of_always {α : Type} (free : Nat → α) (l : List α) (a : α) (d k : Nat) :
    (Answers.after k ⟨l, .always a, d⟩).head free = l[k]?.getD a := by
  induction k generalizing l with
  | zero => cases l <;> rfl
  | succ k ih =>
    cases l with
    | nil => exact ih []
    | cons x rest => exact ih rest

/-- Settles O52: the coming answers of both collaborators, read off the list at each index. -/
theorem listHostAnswers : Obligations.ListHostAnswers := by
  intro s text bytes hport
  have hinput : ∀ k, s.comingInput k = (bytes.map fun b => some (.byte b))[k]?.getD (some .endOfInput) := by
    intro k
    rw [State.comingInput, hport]
    exact Answers.head_after_of_always ..
  refine ⟨fun k b hb => ?_, fun k hk => ?_, fun k => ?_⟩
  · rw [hinput, List.getElem?_map, hb]
    rfl
  · rw [hinput, List.getElem?_map, List.getElem?_eq_none hk]
    rfl
  · rw [hport]
    exact Answers.head_after_of_always ..

/-! ### The output -/

/-- The output grows by the active cell at an accepted `.`, and by no other instruction. -/
theorem exec_sent {i : Instr} (h : exec i s = .next t) :
    t.port.sent = s.port.sent ∨
      (i = .output ∧ outAnswer s = .accepted ∧
        ∃ v, memRead s s.dp = .ok v ∧ t.port.sent = s.port.sent ++ [v]) := by
  by_cases hio : i ∈ [Instr.output, .input]
  · rcases List.mem_pair.1 hio with rfl | rfl
    · obtain ⟨hon, ⟨hans, rfl⟩ | ⟨-, rfl⟩⟩ := execOutput_next h
      · exact .inr ⟨rfl, hans, _, memRead_ok.2 ⟨hon, rfl⟩, rfl⟩
      · exact .inl rfl
    · exact .inl (execInput_output_side h).1
  · exact .inl (congrArg Port.sent ((exec_writeSet h).port_eq hio))

theorem closeStep_sameRun (s : State) : s.SameRun (closeStep s) := by
  unfold closeStep
  split <;> exact ⟨⟨rfl, rfl, rfl⟩, rfl, rfl, rfl, rfl⟩

theorem engineStep_sent (h : engineStep s = .next t) :
    t.port.sent = s.port.sent ∨
      (s.status = .running ∧ fetch s s.pc = .ok codeOutput ∧ outAnswer s = .accepted ∧
        ∃ v, memRead s s.dp = .ok v ∧ t.port.sent = s.port.sent ++ [v]) := by
  obtain ⟨-, rfl⟩ | ⟨-, -, rfl⟩ | ⟨-, -, hscan⟩ | ⟨-, -, rfl⟩ | ⟨hs, c, hlt, hc, hexec⟩ | ⟨r, -, rfl⟩ :=
    engineStep_next h
  · exact .inl rfl
  · exact .inl (congrArg Port.sent (closeStep_sameRun s).port)
  · exact .inl (congrArg Port.sent (scanStep_sameRun hscan).port)
  · exact .inl rfl
  · refine (exec_sent hexec).imp_right fun ⟨hi, hans, hcell⟩ => ⟨hs, ?_, hans, hcell⟩
    rw [fetch_ok.2 ⟨hlt, hc⟩, ← encode_decode c, hi, encode]
  · exact .inl rfl

/-- Settles O45: the engine's own step appends at an accepted `.` alone, and no move of the host but reset touches the
output. -/
theorem outputOnlyGrows : Obligations.OutputOnlyGrows := by
  intro s t h hreset
  obtain ⟨-, h⟩ | ⟨rest, -, h⟩ | ⟨text, rest, -, -, rfl⟩ | ⟨rest, -, ⟨-, -, rfl⟩ | ⟨-, rfl⟩⟩ | ⟨rest, hm, -⟩ :=
    systemStep_next h
  · exact engineStep_sent h
  · exact engineStep_sent (s := dropMove s) h
  · exact .inl rfl
  · exact .inl rfl
  · exact .inl rfl
  · exact absurd hm (hreset rest)

end Sys2Proof.Machine
end

section
/-! An engine on a tape of another size, or with other moves of the host to come, takes the same step
(47_host_interface.md R175, 70_reset_and_hazards.md R253): the moves are read by the host's part of a step alone, and the
size only where the pointer is compared with it. -/

namespace Sys2Proof.Machine

/-- `s` on a tape of `n` cells, with the moves `ms` of the host to come. -/
def State.refit (n : Nat) (ms : List HostMove) (s : State) : State :=
  { s with
    geom := { s.geom with tapeSize := n }
    port := { s.port with moves := ms } }

/-- `d` is a cell of the tape of `s` exactly if it is one of a tape of `n` cells. -/
abbrev State.sameEdge (s : State) (n : Nat) (d : Int) : Prop := s.onTape d ↔ 0 ≤ d ∧ d < n

/-- The outcome with `f` applied to the next state. -/
def mapNext (f : State → State) : StepOutcome → StepOutcome
  | .next t => .next (f t)
  | .fault r => .fault r
  | .refused r => .refused r

theorem mapNext_onOk {α : Type} (f : State → State) (r : Except Fault α) (k : α → StepOutcome) :
    mapNext f (onOk r k) = onOk r fun x => mapNext f (k x) := by
  cases r <;> rfl

/-- Where an instruction leaves the data pointer. -/
def dpAfter : Instr → Int → Int
  | .right, d => d + 1
  | .left, d => d - 1
  | _, d => d

theorem exec_dpAfter {s t : State} {i : Instr} (h : exec i s = .next t) : t.dp = dpAfter i s.dp := by
  cases i with
  | right => exact Host.Outcome.next.inj h ▸ finishStep_dp _
  | left => exact Host.Outcome.next.inj h ▸ finishStep_dp _
  | _ => exact (exec_writeSet h).dp_eq (by simp)

section
variable {s : State} (n : Nat) (ms : List HostMove)

/-! ### Instructions -/

section SameEdge
variable {n} (h : s.sameEdge n s.dp)
include h

theorem readActive_refit : readActive (s.refit n ms) = readActive s := if_congr h.symm rfl rfl

theorem checkBounds_refit : checkBounds (s.refit n ms) = (checkBounds s).refit n ms := by
  by_cases hon : s.onTape s.dp
  · rw [checkBounds_of_onTape hon]
    exact checkBounds_of_onTape (h.1 hon)
  · rw [checkBounds_of_offTape hon]
    exact checkBounds_of_offTape (s := s.refit n ms) (mt h.2 hon)

theorem finishStep_refit : finishStep (s.refit n ms) = (finishStep s).refit n ms :=
  checkBounds_refit (s := advancePc s) ms h

/-- The end of `+`, `-` and of a `,` with a byte. -/
theorem writeActive_finishStep_refit (v : Byte) :
    (onOk (writeActive (s.refit n ms) v) fun t => .next (finishStep t)) =
      mapNext (State.refit n ms) (onOk (writeActive s v) fun t => .next (finishStep t)) := by
  by_cases hon : s.onTape s.dp
  · rw [writeActive_of_onTape hon, writeActive_of_onTape (s := s.refit n ms) (h.1 hon)]
    exact congrArg Host.Outcome.next (finishStep_refit (s := s.setTape (tapePut s.tape s.dp.toNat v)) ms h)
  · rw [writeActive_of_offTape hon, writeActive_of_offTape (s := s.refit n ms) (mt h.2 hon)]
    rfl

/-- An instruction that begins with a read of the active cell is the same if what it does with the value is. -/
theorem onOk_readActive_refit {k k' : Byte → StepOutcome} (hk : ∀ v, k' v = mapNext (State.refit n ms) (k v)) :
    onOk (readActive (s.refit n ms)) k' = mapNext (State.refit n ms) (onOk (readActive s) k) := by
  rw [readActive_refit ms h, mapNext_onOk, funext hk]

theorem execOutput_refit : execOutput (s.refit n ms) = mapNext (State.refit n ms) (execOutput s) := by
  refine onOk_readActive_refit ms h fun v => ?_
  have hans : outAnswer (s.refit n ms) = outAnswer s := rfl
  rw [hans]
  cases outAnswer s with
  | accepted => exact congrArg _ (finishStep_refit (s := recordSent v (dropOutAnswer s)) ms h)
  | failed => rfl

theorem execInput_refit : execInput (s.refit n ms) = mapNext (State.refit n ms) (execInput s) := by
  have hans : inAnswer (s.refit n ms) = inAnswer s := rfl
  unfold execInput
  rw [hans]
  cases inAnswer s with
  | none => rfl
  | some a =>
    cases a with
    | byte b => exact writeActive_finishStep_refit (s := recordAnswer (.byte b) (dropInAnswer s)) ms h b
    | endOfInput => exact congrArg _ (finishStep_refit (s := recordAnswer .endOfInput (dropInAnswer s)) ms h)
    | failed => rfl

theorem takeJump_refit : takeJump (s.refit n ms) = mapNext (State.refit n ms) (takeJump s) := by
  rw [takeJump, takeJump, mapNext_onOk]
  exact congrArg _ (funext fun q => congrArg _ (checkBounds_refit (s := s.setPc q) ms h))

theorem branch_refit (taken : Byte → Bool) :
    branch taken (s.refit n ms) = mapNext (State.refit n ms) (branch taken s) := by
  refine onOk_readActive_refit ms h fun v => ?_
  rw [takeJump_refit ms h, finishStep_refit ms h, apply_ite (mapNext _)]
  rfl

/-- Every instruction is the same if the two tapes agree on the pointer before and after it. -/
theorem exec_refit {i : Instr} (hafter : s.sameEdge n (dpAfter i s.dp)) :
    exec i (s.refit n ms) = mapNext (State.refit n ms) (exec i s) := by
  cases i with
  | right => exact congrArg _ (finishStep_refit (s := s.setDp (s.dp + 1)) ms hafter)
  | left => exact congrArg _ (finishStep_refit (s := s.setDp (s.dp - 1)) ms hafter)
  | inc => exact onOk_readActive_refit ms h fun _ => writeActive_finishStep_refit ms h _
  | dec => exact onOk_readActive_refit ms h fun _ => writeActive_finishStep_refit ms h _
  | output => exact execOutput_refit ms h
  | input => exact execInput_refit ms h
  | openLoop => exact branch_refit ms h _
  | closeLoop => exact branch_refit ms h _
  | nop c => exact congrArg _ (finishStep_refit ms h)

end SameEdge

/-! ### The pre-pass, and the engine's own step -/

theorem scanOpen_refit : scanOpen (s.refit n ms) = mapNext (State.refit n ms) (scanOpen s) := by
  by_cases hroom : s.sp < s.geom.progMax
  · rw [scanOpen_of_room hroom]
    exact scanOpen_of_room hroom
  · rw [scanOpen_of_full (Nat.le_of_not_lt hroom)]
    exact scanOpen_of_full (s := s.refit n ms) (Nat.le_of_not_lt hroom)

theorem scanClose_refit : scanClose (s.refit n ms) = mapNext (State.refit n ms) (scanClose s) := by
  rw [scanClose, scanClose, apply_ite (mapNext _), mapNext_onOk]
  rfl

theorem scanStep_refit : scanStep (s.refit n ms) = mapNext (State.refit n ms) (scanStep s) := by
  simp only [scanStep, mapNext_onOk, apply_ite (mapNext _), scanOpen_refit, scanClose_refit]
  rfl

theorem closeStep_refit : closeStep (s.refit n ms) = (closeStep s).refit n ms := by
  rw [closeStep, closeStep, apply_ite (State.refit n ms)]
  rfl

theorem resolverStep_refit : resolverStep (s.refit n ms) = mapNext (State.refit n ms) (resolverStep s) := by
  rw [resolverStep, resolverStep, scanStep_refit, closeStep_refit, apply_ite (mapNext _)]
  rfl

/-- The two tapes agree on the pointer before and after the instruction at `pc`. -/
def State.SameEdges (s : State) (n : Nat) : Prop :=
  s.sameEdge n s.dp ∧ ∀ c, fetch s s.pc = .ok c → s.sameEdge n (dpAfter (decode c) s.dp)

variable {n}

theorem instructionStep_refit (h : s.SameEdges n) :
    instructionStep (s.refit n ms) = mapNext (State.refit n ms) (instructionStep s) := by
  obtain ⟨hbefore, hafter⟩ := h
  have hfetch : fetch (s.refit n ms) (s.refit n ms).pc = fetch s s.pc := rfl
  rw [instructionStep, instructionStep, hfetch]
  cases hc : fetch s s.pc with
  | ok c => exact exec_refit ms hbefore (hafter c hc)
  | error f => rfl

theorem runningStep_refit (h : s.SameEdges n) :
    runningStep (s.refit n ms) = mapNext (State.refit n ms) (runningStep s) := by
  rw [runningStep, runningStep, instructionStep_refit ms h, apply_ite (mapNext _)]
  rfl

theorem engineStep_refit (h : s.status = .running → s.SameEdges n) :
    engineStep (s.refit n ms) = mapNext (State.refit n ms) (engineStep s) := by
  have hstatus : (s.refit n ms).status = s.status := rfl
  unfold engineStep
  rw [hstatus]
  cases hs : s.status with
  | ready => rfl
  | resolving => exact resolverStep_refit n ms
  | running => exact runningStep_refit ms (h hs)
  | halted r => rfl

end

/-! ### No refusal -/

section
variable {s : State} (q : Refusal)

theorem onOk_ne_refused {α : Type} {r : Except Fault α} {k : α → StepOutcome} (hk : ∀ x, k x ≠ .refused q) :
    onOk r k ≠ .refused q := by
  intro h
  obtain ⟨x, -, hx⟩ := onOk_refused.1 h
  exact hk x hx

theorem writeActive_finishStep_ne_refused (v : Byte) :
    (onOk (writeActive s v) fun t => .next (finishStep t)) ≠ .refused q :=
  onOk_ne_refused q fun _ => nofun

theorem execInput_ne_refused : execInput s ≠ .refused q := by
  unfold execInput
  split
  · nofun
  · next a _ =>
    cases a with
    | byte b => exact writeActive_finishStep_ne_refused q b
    | endOfInput => nofun
    | failed => nofun

theorem branch_ne_refused (taken : Byte → Bool) : branch taken s ≠ .refused q :=
  onOk_ne_refused q fun v => by
    split
    · exact onOk_ne_refused q fun _ => nofun
    · nofun

/-- Every instruction has a meaning. -/
theorem exec_ne_refused (i : Instr) : exec i s ≠ .refused q := by
  cases i with
  | right => nofun
  | left => nofun
  | inc => exact onOk_ne_refused q fun _ => writeActive_finishStep_ne_refused q _
  | dec => exact onOk_ne_refused q fun _ => writeActive_finishStep_ne_refused q _
  | output => exact onOk_ne_refused q fun _ => nofun
  | input => exact execInput_ne_refused q
  | openLoop => exact branch_ne_refused q _
  | closeLoop => exact branch_ne_refused q _
  | nop c => nofun

theorem scanClose_ne_refused : scanClose s ≠ .refused q := by
  unfold scanClose
  split
  · nofun
  · exact onOk_ne_refused q fun _ => nofun

theorem scanStep_ne_refused : scanStep s ≠ .refused q :=
  onOk_ne_refused q fun c => by
    split
    · exact onOk_ne_refused q fun _ => nofun
    · split
      · exact scanClose_ne_refused q
      · nofun

/-- Only a move of the host can be refused. -/
theorem engineStep_ne_refused : engineStep s ≠ .refused q := by
  unfold engineStep resolverStep runningStep
  split
  · nofun
  · split
    · nofun
    · exact scanStep_ne_refused q
  · split
    · nofun
    · exact onOk_ne_refused q fun c => exec_ne_refused q (decode c)
  · nofun

end

/-! ### Another host, another tape -/

/-- Settles O53: the moves still to come are nothing to the engine's own step. -/
theorem idleHostLeavesTheStepToTheEngine : Obligations.IdleHostLeavesTheStepToTheEngine := by
  intro s rest hm
  have hidle : dropMove s = State.refit s.geom.tapeSize rest { s with port := { s.port with moves := [] } } :=
    dropMove_of_moves hm
  have hstep : step s =
      mapNext (State.refit s.geom.tapeSize rest) (engineStep { s with port := { s.port with moves := [] } }) := by
    rw [step_of_idle hm, hidle]
    exact engineStep_refit rest fun _ => ⟨Iff.rfl, fun _ _ => Iff.rfl⟩
  refine ⟨fun t ht => ?next, fun f hf => ?fault, fun r => ?refused⟩
  case next =>
    have ht : engineStep { s with port := { s.port with moves := [] } } = .next t := ht
    have hgeom : t.geom = s.geom := (engineStep_sameProgram ht).geom
    rw [hstep, ht, mapNext, State.refit, ← hgeom]
  case fault =>
    have hf : engineStep { s with port := { s.port with moves := [] } } = .fault f := hf
    rw [hstep, hf, mapNext]
  case refused =>
    rw [step_of_idle hm]
    exact engineStep_ne_refused r

theorem runningStep_moves {s t : State} (h : runningStep s = .next t) : t.port.moves = s.port.moves := by
  obtain ⟨-, rfl⟩ | ⟨c, -, -, hexec⟩ := runningStep_next h
  · rfl
  · exact (exec_writeSet hexec).moves

/-- In `Running`, with the pointer on both tapes before and after it, the engine's own step is the same on the other
tape. -/
theorem engineStep_resized {s t : State} {n : Nat} (hs : s.status = .running) (hon : s.onTape s.dp) (hn : s.dp < n)
    (h : engineStep s = .next t) (hont : t.onTape t.dp) (hnt : t.dp < n) :
    engineStep (s.refit n s.port.moves) = .next (t.refit n t.port.moves) := by
  have hedges : s.SameEdges n := by
    refine ⟨by omega, fun c hc => ?_⟩
    rw [engineStep_of_fetch hs hc] at h
    have hdp : t.dp = dpAfter (decode c) s.dp := exec_dpAfter h
    rw [State.onTape, (exec_writeSet h).geom] at hont
    omega
  have hmoves : t.port.moves = s.port.moves := runningStep_moves (engineStep_of_running hs ▸ h)
  rw [engineStep_refit s.port.moves fun _ => hedges, h, mapNext, hmoves]

/-- Settles O47: the engine's own step does not see the size, `start` is ignored in `Running`, and a reset keeps the
size. -/
theorem tapeSizeIsNotObservableInside : Obligations.TapeSizeIsNotObservableInside := by
  intro s t n hs hon hn h hont hnt
  obtain ⟨hm, h⟩ | ⟨rest, hm, h⟩ | ⟨text, rest, -, hready, -⟩ | ⟨rest, hm, ⟨hready, -, -⟩ | ⟨hready, rfl⟩⟩ |
    ⟨rest, hm, rfl⟩ := systemStep_next h
  · exact (step_of_no_move (s := s.refit n s.port.moves) hm).trans (engineStep_resized hs hon hn h hont hnt)
  · exact (step_of_idle (s := s.refit n s.port.moves) hm).trans
      (engineStep_resized (s := dropMove s) hs hon hn h hont hnt)
  · simp [hs] at hready
  · simp [hs] at hready
  · exact (step_of_start (s := s.refit n s.port.moves) hm).trans (hostStart_of_not_ready hready)
  · exact step_of_reset (s := s.refit n s.port.moves) hm

end Sys2Proof.Machine
end

section
/-! The state left by each way of halting (60_exceptions.md R207): what a step that halts has done, by its result. -/

namespace Sys2Proof.Machine

/-- From `s`, which is not halted, the engine's own step halts with a result and leaves a state. -/
inductive State.HaltsTo (s : State) : RunResult → State → Prop
  | ok (hpc : s.pc = s.len) : s.HaltsTo .ok (terminate s)
  | unmatchedBracket {t : State} (hs : s.status = .resolving) (hsame : s.SameRun t) :
      s.HaltsTo (.error .unmatchedBracket) t
  | pointerOutOfBounds {c : Byte} {d : Int} (hc : fetch s s.pc = .ok c)
      (hd : (c = codeRight ∧ d = s.dp + 1) ∨ (c = codeLeft ∧ d = s.dp - 1)) (hoff : ¬ s.onTape d) :
      s.HaltsTo (.error .pointerOutOfBounds) (raiseError .pointerOutOfBounds (advancePc (s.setDp d)))
  | inputFailed :
      s.HaltsTo (.error .inputFailed) (raiseError .inputFailed (recordAnswer .failed (dropInAnswer s)))
  | outputFailed : s.HaltsTo (.error .outputFailed) (raiseError .outputFailed (dropOutAnswer s))

variable {s t : State} {r : RunResult}

/-! ### The steps that halt -/

/-- A pointer move that halts has left the tape. -/
theorem finishStep_setDp_haltsTo {c : Byte} {d : Int} (hlive : ∀ r, s.status ≠ .halted r)
    (hc : fetch s s.pc = .ok c) (hd : (c = codeRight ∧ d = s.dp + 1) ∨ (c = codeLeft ∧ d = s.dp - 1))
    (ht : (finishStep (s.setDp d)).status = .halted r) : s.HaltsTo r (finishStep (s.setDp d)) := by
  by_cases hon : s.onTape d
  · exact absurd (finishStep_status_of_onTape (s := s.setDp d) hon ▸ ht) (hlive r)
  · rw [finishStep_of_offTape (s := s.setDp d) hon] at ht ⊢
    cases ht
    exact .pointerOutOfBounds hc hd hon

theorem exec_haltsTo {c : Byte} (hlive : ∀ r, s.status ≠ .halted r) (hon : s.onTape s.dp)
    (hc : fetch s s.pc = .ok c) (h : exec (decode c) s = .next t) (ht : t.status = .halted r) : s.HaltsTo r t := by
  have hsame : t.status ≠ s.status := fun hsame => hlive r (hsame ▸ ht)
  have hcode : encode (decode c) = c := encode_decode c
  obtain ⟨hi, rfl⟩ | ⟨hi, rfl⟩ | ⟨d, -, h⟩ | ⟨-, h⟩ | ⟨-, h⟩ | ⟨-, h⟩ | ⟨-, h⟩ | ⟨c, -, rfl⟩ := exec_next h
  · exact finishStep_setDp_haltsTo hlive hc (.inl ⟨hcode.symm.trans (congrArg encode hi), rfl⟩) ht
  · exact finishStep_setDp_haltsTo hlive hc (.inr ⟨hcode.symm.trans (congrArg encode hi), rfl⟩) ht
  · obtain ⟨-, rfl⟩ := addToCell_next h
    exact absurd rfl hsame
  · obtain ⟨-, ⟨-, rfl⟩ | ⟨-, rfl⟩⟩ := execOutput_next h
    · exact absurd rfl hsame
    · cases ht
      exact .outputFailed
  · by_cases hfail : inAnswer s = some .failed
    · rw [execInput_of_answer hfail] at h
      cases h
      cases ht
      exact .inputFailed
    · exact absurd (execInput_status h hon hfail) hsame
  · obtain ⟨-, ⟨q, -, -, rfl⟩ | ⟨-, rfl⟩⟩ := branch_next h <;> exact absurd rfl hsame
  · obtain ⟨-, ⟨q, -, -, rfl⟩ | ⟨-, rfl⟩⟩ := branch_next h <;> exact absurd rfl hsame
  · exact absurd (finishStep_status_of_onTape hon) hsame

theorem closeStep_status (s : State) :
    (closeStep s).status = .running ∨ (closeStep s).status = .halted (.error .unmatchedBracket) := by
  by_cases hsp : s.sp = 0
  · exact .inl (by rw [closeStep_of_empty hsp, State.setStatus_status])
  · exact .inr (by rw [closeStep_of_pending hsp, raiseError_status])

theorem engineStep_haltsTo (hinv : s.Inv) (hlive : ∀ r, s.status ≠ .halted r) (h : engineStep s = .next t)
    (ht : t.status = .halted r) : s.HaltsTo r t := by
  obtain ⟨-, rfl⟩ | ⟨hs, -, rfl⟩ | ⟨hs, -, hscan⟩ | ⟨-, hpc, rfl⟩ | ⟨hs, c, hlt, hc, hexec⟩ | ⟨r', hs, -⟩ :=
    engineStep_next h
  · exact absurd ht (hlive r)
  · obtain hgo | hhalt := closeStep_status s
    · cases hgo.symm.trans ht
    · cases hhalt.symm.trans ht
      exact .unmatchedBracket hs (closeStep_sameRun s)
  · obtain hgo | hhalt := scanStep_status hscan
    · exact absurd (hgo.symm.trans ht) (hlive r)
    · cases hhalt.symm.trans ht
      exact .unmatchedBracket hs (scanStep_sameRun hscan)
  · cases ht
    exact .ok hpc
  · exact exec_haltsTo hlive (hinv.dp_in (hlive _)) (fetch_ok.2 ⟨hlt, hc⟩) hexec ht
  · exact absurd hs (hlive r')

/-- A step that halts is the engine's own, whatever moves of the host are still to come. -/
theorem step_haltsTo (hinv : s.Inv) (hlive : ∀ r, s.status ≠ .halted r) (h : step s = .next t)
    (ht : t.status = .halted r) :
    ∃ ms, State.HaltsTo { s with port := { s.port with moves := ms } } r t := by
  obtain ⟨-, h⟩ | ⟨rest, -, h⟩ | ⟨text, rest, -, -, rfl⟩ | ⟨rest, -, ⟨-, -, rfl⟩ | ⟨-, rfl⟩⟩ | ⟨rest, -, rfl⟩ :=
    systemStep_next h
  · exact ⟨s.port.moves, engineStep_haltsTo hinv hlive h ht⟩
  · exact ⟨s.port.moves.tail, engineStep_haltsTo (dropMove_inv hinv) hlive h ht⟩
  · exact absurd ht (hlive r)
  · cases ht
  · exact absurd ht (hlive r)
  · cases ht

/-! ### The rows of R207 -/

/-- Settles O30: each result comes from one kind of step. -/
theorem stateLeftByEachHalt : Obligations.StateLeftByEachHalt := by
  intro s t hinv hlive hstep
  have hon : s.onTape s.dp := hinv.dp_in (hlive _)
  refine ⟨fun ht => ?ok, fun ht => ?unmatchedBracket, fun ht => ?pointerOutOfBounds, fun ht => ?inputFailed,
    fun ht => ?outputFailed⟩
  all_goals obtain ⟨ms, hhalt⟩ := step_haltsTo hinv hlive hstep ht
  case ok =>
    obtain ⟨hpc⟩ := hhalt
    exact ⟨hpc, rfl, hon, rfl, rfl, rfl⟩
  case unmatchedBracket =>
    obtain _ | ⟨hs, hsame⟩ := hhalt
    have hs : s.status = .resolving := hs
    obtain ⟨htape, hdp, hpc, hsent, hanswered⟩ := hinv.fresh (by simp [hs, Status.untouched])
    exact ⟨hsame.pc.trans hpc, hsame.dp.trans hdp, hsame.tape.trans htape,
      (congrArg Port.sent hsame.port).trans hsent, (congrArg Port.answered hsame.port).trans hanswered⟩
  case pointerOutOfBounds =>
    obtain _ | _ | @⟨c, d, hc, hd, hoff⟩ := hhalt
    have hd : (c = codeRight ∧ d = s.dp + 1) ∨ (c = codeLeft ∧ d = s.dp - 1) := hd
    have hoff : ¬ s.onTape d := hoff
    refine ⟨rfl, rfl, rfl, rfl, ?_⟩
    obtain ⟨rfl, hd⟩ | ⟨rfl, hd⟩ := hd
    · exact .inl ⟨hc, show d = s.geom.tapeSize by omega⟩
    · exact .inr ⟨hc, show d = -1 by omega⟩
  case inputFailed =>
    cases hhalt
    exact ⟨rfl, rfl, rfl, rfl, rfl⟩
  case outputFailed =>
    cases hhalt
    exact ⟨rfl, rfl, rfl, rfl, rfl⟩

end Sys2Proof.Machine
end

section
/-! Endless loops (70_reset_and_hazards.md R251, R252): one turn of a loop answers the state it began in, but for the record
of answers, so any number of turns does. -/

namespace Sys2Proof.Machine

variable {s t : State}

/-! ### Any number of turns -/

theorem stepTimes_add (m n : Nat) (h : stepTimes m s = .next t) : stepTimes (m + n) s = stepTimes n t := by
  induction m generalizing s with
  | zero =>
    obtain rfl : s = t := Host.Outcome.next.inj h
    rw [Nat.zero_add]
  | succ m ih =>
    rw [Nat.add_right_comm]
    cases hu : step s with
    | next u =>
      rw [stepTimes_succ_of_step hu] at h ⊢
      exact ih h
    | fault f => simp [stepTimes, hu] at h
    | refused r => simp [stepTimes, hu] at h

/-- If `k` steps lead from each state of a sequence to the next, `k * n` steps lead from the first to number `n`. -/
theorem stepTimes_mul {f : Nat → State} {k : Nat} (h : ∀ n, stepTimes k (f n) = .next (f (n + 1))) (n : Nat) :
    stepTimes (k * n) (f 0) = .next (f n) := by
  induction n with
  | zero => rfl
  | succ n ih => rw [Nat.mul_succ, stepTimes_add _ _ ih, h]

/-! ### End of input for ever -/

/-- `s` with the answer end of input recorded `n` times more. -/
def State.withEnds (s : State) (n : Nat) : State :=
  { s with port := { s.port with answered := s.port.answered ++ List.replicate n .endOfInput } }

theorem State.withEnds_zero (s : State) : s.withEnds 0 = s := by
  rw [State.withEnds, List.replicate_zero, List.append_nil]

theorem State.withEnds_succ (s : State) (n : Nat) :
    s.withEnds (n + 1) = recordAnswer .endOfInput (s.withEnds n) := by
  rw [State.withEnds, List.replicate_succ', ← List.append_assoc]
  rfl

/-- A `,` at end of input for ever steps on and records the answer. -/
theorem step_at_input_of_ended (hs : s.status = .running) (hm : s.port.moves = []) (hon : s.onTape s.dp)
    (hc : fetch s s.pc = .ok codeInput) (hlisted : s.port.inputs.listed = [])
    (hrest : s.port.inputs.rest = .always (some .endOfInput)) :
    step s = .next (advancePc (recordAnswer .endOfInput s)) := by
  have hdecode : decode codeInput = .input := decode_encode (i := .input) rfl
  have hdrop : dropInAnswer s = s := by rw [dropInAnswer, Answers.tail_of_always hlisted hrest]; rfl
  rw [step_of_no_move hm, engineStep_of_fetch hs hc, hdecode, exec,
    execInput_of_answer (Answers.head_of_always hlisted hrest _), hdrop]
  exact inputEffect_endOfInput_of_onTape (s := recordAnswer .endOfInput s) hon

/-! ### One turn -/

section Turn
variable {o : Nat} {v : Byte} (hs : s.status = .running) (hm : s.port.moves = []) (hread : memRead s s.dp = .ok v)
  (hv : v ≠ 0) (hopen : s.openAt o) (hclose : s.closeAt s.pc) (ho : storeGet s.jt s.pc = some o)
include hs hm hread hv

/-- The `[` at `o` passes into the loop. -/
theorem step_into_loop (hopen : s.openAt o) : step { s with pc := o } = .next { s with pc := o + 1 } :=
  (step_at_open (s := { s with pc := o }) hs hm hopen).trans (exec_openLoop_of_ne_zero hread hv)

include hclose ho

/-- The `]` goes back to its `[`. -/
theorem step_back_to_open : step s = .next { s with pc := o } :=
  (step_at_close hs hm hclose).trans (exec_closeLoop_of_ne_zero hread hv ho)

include hopen

theorem stepTimes_two_to_body : stepTimes 2 s = .next { s with pc := o + 1 } :=
  stepTimes_two_of_next (step_back_to_open hs hm hread hv hclose ho) (step_into_loop hs hm hread hv hopen)

/-- A turn of `[]` answers the same state. -/
theorem stepTimes_turn_of_empty_loop (hpc : s.pc = o + 1) : stepTimes 2 s = .next s := by
  rw [stepTimes_two_to_body hs hm hread hv hopen hclose ho, ← hpc]

/-- A turn of `[,]` at end of input for ever records one answer more. -/
theorem stepTimes_turn_of_input_loop (hpc : s.pc = o + 2) (hc : fetch s (o + 1) = .ok codeInput)
    (hlisted : s.port.inputs.listed = []) (hrest : s.port.inputs.rest = .always (some .endOfInput)) :
    stepTimes 3 s = .next (recordAnswer .endOfInput s) := by
  obtain ⟨hon, -⟩ := memRead_ok.1 hread
  have hinput : step { s with pc := o + 1 } = .next (advancePc (recordAnswer .endOfInput { s with pc := o + 1 })) :=
    step_at_input_of_ended (s := { s with pc := o + 1 }) hs hm hon hc hlisted hrest
  have hend : advancePc (recordAnswer .endOfInput { s with pc := o + 1 }) = recordAnswer .endOfInput s := by
    rw [advancePc, recordAnswer_pc, ← hpc]
    rfl
  calc stepTimes 3 s
      = stepTimes 1 { s with pc := o + 1 } :=
        stepTimes_add 2 1 (stepTimes_two_to_body hs hm hread hv hopen hclose ho)
    _ = .next (recordAnswer .endOfInput s) := by rw [stepTimes_succ_of_step hinput, hend]; rfl

end Turn

/-- Settles O51: a turn of either loop leads to a state from which the next turn is the same. -/
theorem endlessLoopsAreKept : Obligations.EndlessLoopsAreKept := by
  intro s o v hs hm hread hv hopen hclose ho
  refine ⟨fun hpc n => ?empty, fun hpc hc hlisted hrest n => ?input⟩
  case empty =>
    have hturns : stepTimes (2 * n) s = .next s :=
      stepTimes_mul (f := fun _ => s) (fun _ => stepTimes_turn_of_empty_loop hs hm hread hv hopen hclose ho hpc) n
    refine ⟨hturns, ?_⟩
    rw [stepTimes_add _ _ hturns, stepTimes_succ_of_step (step_back_to_open hs hm hread hv hclose ho)]
    rfl
  case input =>
    have hturn : ∀ k, stepTimes 3 (s.withEnds k) = .next (s.withEnds (k + 1)) := fun k => by
      rw [State.withEnds_succ]
      exact stepTimes_turn_of_input_loop (s := s.withEnds k) hs hm hread hv hopen hclose ho hpc hc hlisted hrest
    have hturns := stepTimes_mul hturn n
    rw [State.withEnds_zero] at hturns
    exact hturns

end Sys2Proof.Machine
end
